-- ==== Sys2Proof/Word.lean ====
section
/-! DEFINITION. The word types of the Appendix A core (00_scope.md rule R3: the fixed widths) and the
destination selector `d` of rule R8. -/
namespace Sys2Proof

/-- An 8-bit data value: `W`, a file register, an 8-bit literal (rule R3, `DATA_WIDTH`, `K_WIDTH`). -/
abbrev Byte := BitVec 8

/-- An 8-bit data address, after bank extension or out of `FSR` (rules R3, R63). -/
abbrev DataAddr := BitVec 8

/-- A 13-bit program address: `pc` and the entries of the return stack (rules R3, R37, R40). -/
abbrev Pc := BitVec 13

/-- A 14-bit instruction word, bit 13 the most significant (rule R91). -/
abbrev InstrWord := BitVec 14

/-- The 7-bit direct register operand `f` (rule R3, `F_WIDTH`). -/
abbrev FileNum := BitVec 7

/-- A 3-bit bit number: the operand `b`, or the position of a flag inside its register
(rules R3 `B_WIDTH`, R4). -/
abbrev BitNum := BitVec 3

/-- The 11-bit literal of GOTO and CALL (rule R3, `K11_WIDTH`). -/
abbrev Target := BitVec 11

/-- The destination operand `d` of rule R8: `w` is `d` = 0, `f` is `d` = 1. -/
inductive Dest where
  /-- `d` = 0: the result goes to `W`. -/
  | w
  /-- `d` = 1: the result goes to the file register `f`. -/
  | f
  deriving DecidableEq, Repr

end Sys2Proof
end

