-- ==== Sys2Proof/Syntax.lean ====
section
/-! DEFINITION. The 35 instructions of the Appendix A core, one constructor per row of
spec/opcode_table.json, in the order of rule R2. Every operand has exactly the width of its range
(rules R92, R98), so a term of `Instr` cannot hold an operand that no word encodes (rule R102). -/
namespace Sys2Proof

/-- A decoded instruction (92_eei_decisions.md D2; the list is rule R2, the operand forms rule R92). -/
inductive Instr where
  /-- A.1 MOVLW k (rule R120). -/
  | movlw (k : Byte)
  /-- A.2 MOVWF f (rule R121). -/
  | movwf (f : FileNum)
  /-- A.3 MOVF f, d (rule R122). -/
  | movf (f : FileNum) (d : Dest)
  /-- A.4 CLRW (rule R123). -/
  | clrw
  /-- A.5 CLRF f (rule R124). -/
  | clrf (f : FileNum)
  /-- A.6 SWAPF f, d (rule R125). -/
  | swapf (f : FileNum) (d : Dest)
  /-- A.7 ADDLW k (rule R140). -/
  | addlw (k : Byte)
  /-- A.8 ADDWF f, d (rule R141). -/
  | addwf (f : FileNum) (d : Dest)
  /-- A.9 SUBLW k (rule R142). -/
  | sublw (k : Byte)
  /-- A.10 SUBWF f, d (rule R143). -/
  | subwf (f : FileNum) (d : Dest)
  /-- A.11 ANDLW k (rule R144). -/
  | andlw (k : Byte)
  /-- A.12 ANDWF f, d (rule R145). -/
  | andwf (f : FileNum) (d : Dest)
  /-- A.13 IORLW k (rule R146). -/
  | iorlw (k : Byte)
  /-- A.14 IORWF f, d (rule R147). -/
  | iorwf (f : FileNum) (d : Dest)
  /-- A.15 XORLW k (rule R148). -/
  | xorlw (k : Byte)
  /-- A.16 XORWF f, d (rule R149). -/
  | xorwf (f : FileNum) (d : Dest)
  /-- A.17 INCF f, d (rule R150). -/
  | incf (f : FileNum) (d : Dest)
  /-- A.18 DECF f, d (rule R151). -/
  | decf (f : FileNum) (d : Dest)
  /-- A.19 RLF f, d (rule R152). -/
  | rlf (f : FileNum) (d : Dest)
  /-- A.20 RRF f, d (rule R153). -/
  | rrf (f : FileNum) (d : Dest)
  /-- A.21 COMF f, d (rule R154). -/
  | comf (f : FileNum) (d : Dest)
  /-- A.22 BCF f, b (rule R180). -/
  | bcf (f : FileNum) (b : BitNum)
  /-- A.23 BSF f, b (rule R181). -/
  | bsf (f : FileNum) (b : BitNum)
  /-- A.24 BTFSC f, b (rule R191). -/
  | btfsc (f : FileNum) (b : BitNum)
  /-- A.25 BTFSS f, b (rule R192). -/
  | btfss (f : FileNum) (b : BitNum)
  /-- A.26 INCFSZ f, d (rule R193). -/
  | incfsz (f : FileNum) (d : Dest)
  /-- A.27 DECFSZ f, d (rule R194). -/
  | decfsz (f : FileNum) (d : Dest)
  /-- A.28 GOTO k (rule R195). -/
  | goto (k : Target)
  /-- A.29 CALL k (rule R196). -/
  | call (k : Target)
  /-- A.30 RETURN (rule R197). -/
  | ret
  /-- A.31 RETLW k (rule R198). -/
  | retlw (k : Byte)
  /-- A.32 RETFIE (rule R199). -/
  | retfie
  /-- A.33 NOP (rule R220). -/
  | nop
  /-- A.34 CLRWDT (rule R221). -/
  | clrwdt
  /-- A.35 SLEEP (rule R222). -/
  | sleep
  deriving DecidableEq, Repr

end Sys2Proof
end

