-- ==== Sys2Proof/Decode.lean ====
section
/-! DEFINITION. The decoder of 30_encoding.md rules R99, R100, R101 and R108, and after it the encoder. The
decoder reads the match and mask columns of the opcode map; the encoder is written from the formats R93 to
R97, field by field, so that the two agree only if both are right. Every bit pattern is general knowledge
in the spec (93_implementation_defined.md G2). -/
namespace Sys2Proof

/-- Why a word is no instruction. -/
inductive DecodeReject where
  /-- The word matches no row of the opcode map (rule R101). -/
  | unassigned
  deriving DecidableEq, Repr

/-- `f = w[6:0]` (rule R108). -/
def fieldF (w : InstrWord) : FileNum := w.extractLsb' 0 7

/-- `d = w[7]` (rule R108). -/
def fieldD (w : InstrWord) : Dest := if w.getLsbD 7 then .f else .w

/-- `b = w[9:7]` (rule R108). -/
def fieldB (w : InstrWord) : BitNum := w.extractLsb' 7 3

/-- `k = w[7:0]` for form `K8` (rule R108). -/
def fieldK8 (w : InstrWord) : Byte := w.extractLsb' 0 8

/-- `k = w[10:0]` for form `K11` (rule R108). -/
def fieldK11 (w : InstrWord) : Target := w.extractLsb' 0 11

/-- One row of the opcode map: the `match` and `mask` columns of rule R99 and how the operands are read. -/
structure OpcodeRow where
  /-- The column `match`. -/
  pattern : InstrWord
  /-- The column `mask`: the bits the pattern fixes. -/
  mask : InstrWord
  /-- The instruction of a word of this row. -/
  build : InstrWord → Instr

/-- The word matches the row: `word & mask = match` (rule R99). -/
def OpcodeRow.matches (r : OpcodeRow) (w : InstrWord) : Bool := w &&& r.mask == r.pattern

/-- The 35 rows of rule R99. -/
def opcodeMap : List OpcodeRow :=
  [ ⟨0x3000, 0x3C00, fun w => .movlw (fieldK8 w)⟩,
    ⟨0x0080, 0x3F80, fun w => .movwf (fieldF w)⟩,
    ⟨0x0800, 0x3F00, fun w => .movf (fieldF w) (fieldD w)⟩,
    ⟨0x0100, 0x3F80, fun _ => .clrw⟩,
    ⟨0x0180, 0x3F80, fun w => .clrf (fieldF w)⟩,
    ⟨0x0E00, 0x3F00, fun w => .swapf (fieldF w) (fieldD w)⟩,
    ⟨0x3E00, 0x3E00, fun w => .addlw (fieldK8 w)⟩,
    ⟨0x0700, 0x3F00, fun w => .addwf (fieldF w) (fieldD w)⟩,
    ⟨0x3C00, 0x3E00, fun w => .sublw (fieldK8 w)⟩,
    ⟨0x0200, 0x3F00, fun w => .subwf (fieldF w) (fieldD w)⟩,
    ⟨0x3900, 0x3F00, fun w => .andlw (fieldK8 w)⟩,
    ⟨0x0500, 0x3F00, fun w => .andwf (fieldF w) (fieldD w)⟩,
    ⟨0x3800, 0x3F00, fun w => .iorlw (fieldK8 w)⟩,
    ⟨0x0400, 0x3F00, fun w => .iorwf (fieldF w) (fieldD w)⟩,
    ⟨0x3A00, 0x3F00, fun w => .xorlw (fieldK8 w)⟩,
    ⟨0x0600, 0x3F00, fun w => .xorwf (fieldF w) (fieldD w)⟩,
    ⟨0x0A00, 0x3F00, fun w => .incf (fieldF w) (fieldD w)⟩,
    ⟨0x0300, 0x3F00, fun w => .decf (fieldF w) (fieldD w)⟩,
    ⟨0x0D00, 0x3F00, fun w => .rlf (fieldF w) (fieldD w)⟩,
    ⟨0x0C00, 0x3F00, fun w => .rrf (fieldF w) (fieldD w)⟩,
    ⟨0x0900, 0x3F00, fun w => .comf (fieldF w) (fieldD w)⟩,
    ⟨0x1000, 0x3C00, fun w => .bcf (fieldF w) (fieldB w)⟩,
    ⟨0x1400, 0x3C00, fun w => .bsf (fieldF w) (fieldB w)⟩,
    ⟨0x1800, 0x3C00, fun w => .btfsc (fieldF w) (fieldB w)⟩,
    ⟨0x1C00, 0x3C00, fun w => .btfss (fieldF w) (fieldB w)⟩,
    ⟨0x0F00, 0x3F00, fun w => .incfsz (fieldF w) (fieldD w)⟩,
    ⟨0x0B00, 0x3F00, fun w => .decfsz (fieldF w) (fieldD w)⟩,
    ⟨0x2800, 0x3800, fun w => .goto (fieldK11 w)⟩,
    ⟨0x2000, 0x3800, fun w => .call (fieldK11 w)⟩,
    ⟨0x0008, 0x3FFF, fun _ => .ret⟩,
    ⟨0x3400, 0x3C00, fun w => .retlw (fieldK8 w)⟩,
    ⟨0x0009, 0x3FFF, fun _ => .retfie⟩,
    ⟨0x0000, 0x3F9F, fun _ => .nop⟩,
    ⟨0x0064, 0x3FFF, fun _ => .clrwdt⟩,
    ⟨0x0063, 0x3FFF, fun _ => .sleep⟩ ]

/-- The decoder: the row a word matches gives its instruction, a word of no row is rejected
(rules R101, R108). -/
def decode (w : InstrWord) : Except DecodeReject Instr :=
  match opcodeMap.find? (·.matches w) with
  | some r => .ok (r.build w)
  | none => .error .unassigned

/-- The decoder on any number: one that is no 14-bit word is rejected like an unassigned word. -/
def decodeNat (n : Nat) : Except DecodeReject Instr :=
  if n < 2 ^ 14 then decode (BitVec.ofNat 14 n) else .error .unassigned

/-- What the decoder reads from an instruction whose bits are `w`, bit 0 the least significant. An
instruction is one word (rule R90) and program memory has no byte order (rule R72), so `w` is the word
itself, and bits 15:14 of the two whole bytes `nbits` counts must be 0. -/
def decodeTableWord (_nbits w : Nat) : Option Instr :=
  match decodeNat w with
  | .ok i => some i
  | .error _ => none

/-- The bit `d` of format `FD`. -/
def Dest.bit : Dest → BitVec 1
  | .w => 0
  | .f => 1

/-- Format `FD`, `oooooo d fffffff` (rule R93). -/
def formatFD (op : BitVec 6) (d : Dest) (f : FileNum) : InstrWord := op ++ d.bit ++ f

/-- Format `F`, `ooooooo fffffff` (rule R94). -/
def formatF (op : BitVec 7) (f : FileNum) : InstrWord := op ++ f

/-- Format `FB`, `oooo bbb fffffff` (rule R95). -/
def formatFB (op : BitVec 4) (b : BitNum) (f : FileNum) : InstrWord := op ++ b ++ f

/-- Format `K8`, `oooooo kkkkkkkk` (rule R96). -/
def formatK8 (op : BitVec 6) (k : Byte) : InstrWord := op ++ k

/-- Format `K11`, `ooo kkkkkkkkkkk` (rule R97). -/
def formatK11 (op : BitVec 3) (k : Target) : InstrWord := op ++ k

/-- The canonical word of an instruction, every ignored bit 0 (rules R93 to R100, R108). -/
def encode : Instr → InstrWord
  | .movlw k => formatK8 0b110000 k
  | .movwf f => formatF 0b0000001 f
  | .movf f d => formatFD 0b001000 d f
  | .clrw => 0b00000100000000
  | .clrf f => formatF 0b0000011 f
  | .swapf f d => formatFD 0b001110 d f
  | .addlw k => formatK8 0b111110 k
  | .addwf f d => formatFD 0b000111 d f
  | .sublw k => formatK8 0b111100 k
  | .subwf f d => formatFD 0b000010 d f
  | .andlw k => formatK8 0b111001 k
  | .andwf f d => formatFD 0b000101 d f
  | .iorlw k => formatK8 0b111000 k
  | .iorwf f d => formatFD 0b000100 d f
  | .xorlw k => formatK8 0b111010 k
  | .xorwf f d => formatFD 0b000110 d f
  | .incf f d => formatFD 0b001010 d f
  | .decf f d => formatFD 0b000011 d f
  | .rlf f d => formatFD 0b001101 d f
  | .rrf f d => formatFD 0b001100 d f
  | .comf f d => formatFD 0b001001 d f
  | .bcf f b => formatFB 0b0100 b f
  | .bsf f b => formatFB 0b0101 b f
  | .btfsc f b => formatFB 0b0110 b f
  | .btfss f b => formatFB 0b0111 b f
  | .incfsz f d => formatFD 0b001111 d f
  | .decfsz f d => formatFD 0b001011 d f
  | .goto k => formatK11 0b101 k
  | .call k => formatK11 0b100 k
  | .ret => 0b00000000001000
  | .retlw k => formatK8 0b110100 k
  | .retfie => 0b00000000001001
  | .nop => 0b00000000000000
  | .clrwdt => 0b00000001100100
  | .sleep => 0b00000001100011

end Sys2Proof
end

