-- ==== Sys2Proof/Machine/Bits.lean ====
section
/-! DEFINITION. Single bits of a byte, numbered as rule R4 numbers them (0 the least significant). -/
namespace Sys2Proof.Machine

/-- The byte with weight only in bit `b`: `1 << b`. -/
def bitMask (b : BitNum) : Byte := (1 : Byte) <<< b.toNat

/-- Bit `b` of `v`, the spec's `v[b]` (rule R4). -/
def getBit (v : Byte) (b : BitNum) : Bool := v.getLsbD b.toNat

/-- `v` with bit `b` cleared: `v & ~(1 << b)` (rule R180). -/
def clearBit (v : Byte) (b : BitNum) : Byte := v &&& ~~~ bitMask b

/-- `v` with bit `b` set: `v | (1 << b)` (rule R181). -/
def raiseBit (v : Byte) (b : BitNum) : Byte := v ||| bitMask b

/-- `v` with bit `b` equal to `x`. -/
def putBit (v : Byte) (b : BitNum) (x : Bool) : Byte := if x then raiseBit v b else clearBit v b

/-- The low nibble `v[3:0]`. -/
def lowNibble (v : Byte) : BitVec 4 := v.extractLsb' 0 4

/-- The high nibble `v[7:4]`. -/
def highNibble (v : Byte) : BitVec 4 := v.extractLsb' 4 4

/-- `v[3:0] ++ v[7:4]` (rule R125). -/
def swapNibbles (v : Byte) : Byte := lowNibble v ++ highNibble v

end Sys2Proof.Machine
end

