-- ==== Sys2Proof/Machine/Memory.lean ====
section
/-! DEFINITION. The two sparse stores as lists of address and value pairs in one canonical form (addresses
strictly rising, no entry equal to what an unlisted address reads as): the general-purpose file registers
by register number (rules R49, R66), and program memory by word address (rule R61). The return stack, the
third store of rule R60, is two plain lists of the state. -/
namespace Sys2Proof.Machine

/-- The first entry at address `n`. -/
def lookupCell {α : Type} : List (Nat × α) → Nat → Option α
  | [], _ => none
  | (a, v) :: rest, n => if a = n then some v else lookupCell rest n

/-- The list with the entry `(n, v)` in its place, an entry at `n` replaced. -/
def insertCell {α : Type} : List (Nat × α) → Nat → α → List (Nat × α)
  | [], n, v => [(n, v)]
  | (a, x) :: rest, n, v =>
    if n < a then (n, v) :: (a, x) :: rest
    else if n = a then (n, v) :: rest
    else (a, x) :: insertCell rest n v

/-- The list without its entries at address `n`. -/
def eraseCell {α : Type} : List (Nat × α) → Nat → List (Nat × α)
  | [], _ => []
  | (a, x) :: rest, n => if a = n then eraseCell rest n else (a, x) :: eraseCell rest n

/-- Addresses strictly rising. -/
def sortedCells {α : Type} (m : List (Nat × α)) : Bool :=
  decide (m.Pairwise fun x y => x.1 < y.1)

/-- What a general-purpose register that nothing has written reads as. The spec gives no value (rule R53);
DESIGN CHOICE 0x00, unsafe (assumption 6). -/
def ramUnlisted : Byte := 0x00

/-- The content of general-purpose register `n` (rule R49). -/
def Memory.read (m : List Host.Cell) (n : Nat) : Byte := (lookupCell m n).getD ramUnlisted

/-- Write general-purpose register `n` (rule R49), keeping the canonical form. -/
def Memory.write (m : List Host.Cell) (n : Nat) (v : Byte) : List Host.Cell :=
  if v = ramUnlisted then eraseCell m n else insertCell m n v

/-- The canonical form of the general-purpose registers. -/
def Memory.wf (m : List Host.Cell) : Bool := sortedCells m && m.all fun x => x.2 != ramUnlisted

/-- The canonical memory with the contents of a list of cells in any order. -/
def Memory.ofCells : List Host.Cell → List Host.Cell
  | [] => []
  | (n, v) :: rest => Memory.write (Memory.ofCells rest) n v

/-- The word at program address `n`, `none` where no instruction was placed (rules R61, R62). -/
def ProgMem.read (m : List (Nat × InstrWord)) (n : Nat) : Option InstrWord := lookupCell m n

/-- Place a word at program address `n`: the load of a program, which no instruction does (rule R79). -/
def ProgMem.write (m : List (Nat × InstrWord)) (n : Nat) (w : InstrWord) : List (Nat × InstrWord) :=
  insertCell m n w

/-- The canonical form of program memory; an unlisted address holds no instruction, so every listed word
differs from it. -/
def ProgMem.wf (m : List (Nat × InstrWord)) : Bool := sortedCells m

end Sys2Proof.Machine
end

