-- ==== Sys2Proof/Config.lean ====
section
/-! DEFINITION. The implementation parameters of 00_scope.md rule R3 as plain data, and the values the
spec leaves free. A `Config` is a field of the machine's state that no step changes, so a statement about
every state is a statement about every choice of the open parameters. The parameter set the machine is
reset with (the profile P-GK) is `Machine.profilePGK` in Machine/Profile.lean. -/
namespace Sys2Proof

/-- What a data address selects: the kinds of cell of 20_memory.md rule R66. -/
inductive Cell where
  /-- The operand name that stands for "the register `FSR` points at" (rule R33). -/
  | indf
  /-- The indirect address register (rule R32). -/
  | fsr
  /-- The register of the flags (rule R23). -/
  | status
  /-- The register that supplies `PC<12:11>` (rule R34). -/
  | pclath
  /-- `OPTION_REG`, plain storage (rule R35). -/
  | optionReg
  /-- The register that holds `GIE` (rule R36). -/
  | gieReg
  /-- The low byte of the program counter as a file register (rule R48). -/
  | pcl
  /-- General-purpose register number `n` (rule R49). -/
  | gpr (n : Nat)
  /-- Device register number `n` (rule R69). -/
  | peripheral (n : Nat)
  /-- No cell at all (rule R68). -/
  | unimplemented
  deriving DecidableEq, Repr

/-- One row of a register map: the addresses `lo` to `hi` select `cell`; in a row of general-purpose
or device registers the register number counts up from the row's own with the address. -/
structure MapRow where
  /-- The first address of the row. -/
  lo : Nat
  /-- The last address of the row. -/
  hi : Nat
  /-- The cell at `lo`. -/
  cell : Cell
  deriving DecidableEq, Repr

/-- A piece of the hardware's state that `BankBits` may look at, read as a number (rule R3: a function of
the state). -/
inductive BankSource where
  /-- `W` (rule R20). -/
  | w
  /-- `STATUS` (rule R23). -/
  | status
  /-- `FSR` (rule R32). -/
  | fsr
  /-- `PCLATH` (rule R34). -/
  | pclath
  /-- `OPTION_REG` (rule R35). -/
  | optionReg
  /-- The register that holds `GIE` (rule R36). -/
  | gieReg
  /-- The program counter (rule R37). -/
  | pc
  /-- General-purpose register number `n` (rule R49). -/
  | gpr (n : Nat)
  /-- The number of return addresses on the stack (rule R40). -/
  | stackDepth
  /-- Entry number `i` of the return stack, 0 the newest (rule R40). -/
  | stackEntry (i : Nat)
  /-- The watchdog timer's counter (rule R44). -/
  | wdt
  /-- The watchdog prescaler's counter (rule R45). -/
  | wdtPrescaler
  deriving DecidableEq, Repr

/-- How the high bit of a direct data address is supplied: the parameter function `BankBits` of rules R3 and
R64 as a decision tree over single bits of the state, so that a configuration stays plain data. Every
function of finitely many bits of the state is such a tree (assumption 22). -/
inductive BankSelect where
  /-- A constant bit: the spec's "model that sets `BankBits` to the constant 0". -/
  | fixed (b : Bool)
  /-- As `ifSet` says where bit `pos` of the source is 1, as `ifClear` says where it is 0. -/
  | test (source : BankSource) (pos : Nat) (ifSet ifClear : BankSelect)
  deriving DecidableEq, Repr

/-- `BankBits` is bit `pos` of a source. -/
def BankSelect.bitOf (source : BankSource) (pos : Nat) : BankSelect :=
  .test source pos (.fixed true) (.fixed false)

/-- `BankBits` is a bit of `STATUS`: under P-GK bit 5, `RP0` (rule R64). -/
def BankSelect.statusBit (pos : BitNum) : BankSelect := .bitOf .status pos.toNat

/-- The parameters of rule R3 whose value the spec leaves open or decides. -/
structure Config where
  /-- `PROG_WORDS`: the number of implemented program words (rules R3, R61). -/
  progWords : Nat
  /-- Whether a fetch address wraps modulo `PROG_WORDS` in place of being refused (the parenthesis of
  rule R62; false is the rule's own choice, D4). -/
  fetchWraps : Bool
  /-- `STACK_DEPTH`: the number of return addresses the stack holds (rules R3, R40). -/
  stackDepth : Nat
  /-- `STACK_WRAP`: whether a push on a full stack and a pop of an empty one wrap (rules R3, R43). -/
  stackWrap : Bool
  /-- `BankBits` (rules R3, R64). -/
  bank : BankSelect
  /-- `Resolve` as rows, the first that covers an address decides; an address in no row is
  `Unimplemented` (rules R3, R66). The `ADDR_*` of rule R3 are its preimages (rule R67). -/
  map : List MapRow
  /-- `BIT_C` (rules R3, R23). -/
  bitC : BitNum
  /-- `BIT_DC` (rules R3, R23). -/
  bitDc : BitNum
  /-- `BIT_Z` (rules R3, R23). -/
  bitZ : BitNum
  /-- `BIT_PD` (rules R3, R23). -/
  bitPd : BitNum
  /-- `BIT_TO` (rules R3, R23). -/
  bitTo : BitNum
  /-- `BIT_GIE`, inside the register that holds `GIE` (rules R3, R36). -/
  bitGie : BitNum
  /-- `RESET_VECTOR` (rules R3, R260). -/
  resetVector : Pc
  /-- `INT_VECTOR` (rules R3, R236). -/
  intVector : Pc
  /-- `WDT_ENABLED` (rules R3, R243). -/
  wdtEnabled : Bool
  deriving DecidableEq, Repr

/-- FREE VALUE: the byte that the `n`-th draw from a device register gives. Rule R69: "A model treats a
read as a free input". No body: nothing can be proved of the value (assumption 13). -/
opaque Config.peripheralByte : Nat → Byte

/-- FREE VALUE: the program address at which the `n`-th INCFSZ or DECFSZ goes on that both writes the
program counter as a file register and skips. Rule R48 and rule R190 each replace `pc + 1` and neither
says which wins (assumption 15). No body: nothing can be proved of the value. -/
opaque Config.skipPclTarget : Nat → Pc

end Sys2Proof
end

