-- ==== Sys2Proof/Machine/Profile.lean ====
section
/-! DEFINITION. The register map as a function (`Resolve`, 20_memory.md rule R66) and the profile P-GK of
93_implementation_defined.md section 3, the parameter values the machine is reset with. P-GK is general
knowledge (PRESUMED: the PIC16F84 values; assumption 1). -/
namespace Sys2Proof

/-- The cell `k` addresses above one: register numbers count up, a named register stays itself. -/
def Cell.offset (c : Cell) (k : Nat) : Cell :=
  match c with
  | .gpr n => .gpr (n + k)
  | .peripheral n => .peripheral (n + k)
  | .indf => .indf
  | .fsr => .fsr
  | .status => .status
  | .pclath => .pclath
  | .optionReg => .optionReg
  | .gieReg => .gieReg
  | .pcl => .pcl
  | .unimplemented => .unimplemented

/-- The cell a list of map rows gives address `a`: the first row that covers it. -/
def resolveRows : List MapRow → Nat → Cell
  | [], _ => .unimplemented
  | r :: rest, a => if r.lo ≤ a ∧ a ≤ r.hi then r.cell.offset (a - r.lo) else resolveRows rest a

/-- `Resolve(a)`, the register map (20_memory.md rule R66). -/
def Config.resolve (c : Config) (a : DataAddr) : Cell := resolveRows c.map a.toNat

namespace Machine

/-- The data map of P-GK (93_implementation_defined.md section 3.2). -/
def mapPGK : List MapRow :=
  [ ⟨0x00, 0x00, .indf⟩, ⟨0x80, 0x80, .indf⟩,
    ⟨0x01, 0x01, .peripheral 0⟩, ⟨0x81, 0x81, .optionReg⟩,
    ⟨0x02, 0x02, .pcl⟩, ⟨0x82, 0x82, .pcl⟩,
    ⟨0x03, 0x03, .status⟩, ⟨0x83, 0x83, .status⟩,
    ⟨0x04, 0x04, .fsr⟩, ⟨0x84, 0x84, .fsr⟩,
    ⟨0x05, 0x05, .peripheral 1⟩, ⟨0x85, 0x85, .peripheral 2⟩,
    ⟨0x06, 0x06, .peripheral 3⟩, ⟨0x86, 0x86, .peripheral 4⟩,
    ⟨0x08, 0x08, .peripheral 5⟩, ⟨0x88, 0x88, .peripheral 6⟩,
    ⟨0x09, 0x09, .peripheral 7⟩, ⟨0x89, 0x89, .peripheral 8⟩,
    ⟨0x0A, 0x0A, .pclath⟩, ⟨0x8A, 0x8A, .pclath⟩,
    ⟨0x0B, 0x0B, .gieReg⟩, ⟨0x8B, 0x8B, .gieReg⟩,
    ⟨0x0C, 0x4F, .gpr 0⟩, ⟨0x8C, 0xCF, .gpr 0⟩ ]

/-- The parameter set P-GK (93_implementation_defined.md section 3.1). `STACK_WRAP` is P-GK's `true on
the silicon`, not the spec's default false, so that no instruction is refused where the spec gives an
effect (assumption 3); `WDT_ENABLED` is true, so that a time-out happens exactly when the environment
sends one (assumption 4). -/
def profilePGK : Config where
  progWords := 1024
  fetchWraps := false
  stackDepth := 8
  stackWrap := true
  bank := .statusBit 5
  map := mapPGK
  bitC := 0
  bitDc := 1
  bitZ := 2
  bitPd := 3
  bitTo := 4
  bitGie := 7
  resetVector := 0x0000
  intVector := 0x0004
  wdtEnabled := true

end Machine
end Sys2Proof
end

