-- ==== Sys2Proof/Machine/State.lean ====
section
/-! DEFINITION. The state of the Appendix A core (10_state.md sections 1 and 8), the inputs of its
environment (60_exceptions.md, 70_reset_and_hazards.md), the reasons a step can stop, and the state after
reset. Plain data throughout. -/
namespace Sys2Proof.Machine

/-- Why the machine stops with a fault: never. The hardware raises no exception (rule R230), no behaviour of
it is treated as a fault (93_implementation_defined.md section 1), and a step of the model gives a next state
or is refused (rule R10), so there is no reason of this kind. -/
inductive Fault
  deriving DecidableEq, Repr

/-- Why the model has no next state (rule R10). None of these is an event of the hardware. -/
inductive Refusal where
  /-- An instruction that has no meaning yet; no arm of `exec` answers it. Safe. -/
  | notModelled (mnemonic : String)
  /-- Raised by the step on a word of no row of the opcode map (rule R101). Safe. -/
  | illegalInstruction
  /-- Raised by the fetch at `pc >= PROG_WORDS` where fetches do not wrap (rule R62). Safe. -/
  | fetchOutOfRange
  /-- Raised by the fetch where the program address is implemented and no instruction was placed there
  (rule R62, "or no instruction"; assumption 8). Safe: the silicon would execute whatever word stands there. -/
  | noInstruction
  /-- Raised by CALL and by interrupt entry on a full stack where `STACK_WRAP` is false (rule R43). Safe. -/
  | stackOverflow
  /-- Raised by RETURN, RETLW and RETFIE on an empty stack where `STACK_WRAP` is false, or where the stack
  has no entry at all (rule R43). Safe. -/
  | stackUnderflow
  deriving DecidableEq, Repr

/-- The two power states (rules R46, R245). -/
inductive Mode where
  /-- Instructions execute. -/
  | run
  /-- The low consumption mode SLEEP enters. -/
  | sleep
  deriving DecidableEq, Repr

/-- The kinds of reset the environment can send; the watchdog reset is a time-out, not one of these
(rules R260, R261). -/
inductive ResetKind where
  /-- The start of every run. -/
  | powerOn
  /-- The reset pin. -/
  | external
  deriving DecidableEq, Repr

/-- Values for what rule R51 leaves unspecified after a reset: the environment supplies them
(rule R53, "treats the value as a free input"). -/
structure Unspecified where
  /-- `W` after a power-on reset. -/
  w : Byte := 0
  /-- `FSR` after a power-on reset. -/
  fsr : Byte := 0
  /-- `C` after a power-on reset. -/
  c : Bool := false
  /-- `DC` after a power-on reset. -/
  dc : Bool := false
  /-- `Z` after a power-on reset. -/
  z : Bool := false
  /-- General-purpose registers after a power-on reset, in any order. -/
  ram : List Host.Cell := []
  /-- `OPTION_REG` after any reset. -/
  optionReg : Byte := 0
  /-- The contents of the emptied stack's entries after any reset. -/
  entries : List Pc := []
  deriving DecidableEq, Repr

/-- What the environment answers at one instruction boundary (rules R233, R243, R250, R260). -/
structure BoundaryInput where
  /-- A reset. -/
  reset : Option ResetKind := none
  /-- A watchdog time-out. -/
  wdtTimeout : Bool := false
  /-- `IntReq`: some interrupt source is pending and individually enabled. -/
  intReq : Bool := false
  /-- New values of the watchdog's counter and of its prescaler's, if they changed. -/
  wdtCounters : Option (Nat × Nat) := none
  /-- The values a reset at this boundary leaves unspecified. -/
  unspecified : Unspecified := {}
  deriving DecidableEq, Repr

/-- The boundary at which nothing happens. -/
def quietInput : BoundaryInput := {}

/-- The whole state of the machine. -/
structure State where
  /-- The implementation parameters (rule R3); no step changes them. -/
  cfg : Config
  /-- `W` (rule R20). -/
  w : Byte
  /-- `STATUS`, the five flags among its bits (rules R23 to R31). -/
  status : Byte
  /-- `FSR` (rule R32). -/
  fsr : Byte
  /-- `PCLATH`, its implemented bits 4:0 (rule R34). -/
  pclath : BitVec 5
  /-- `OPTION_REG` (rule R35). -/
  optionReg : Byte
  /-- The register that holds `GIE` (rule R36). -/
  gieReg : Byte
  /-- The program counter (rule R37). -/
  pc : Pc
  /-- The return stack, newest first, `TOS` its head (rule R40). -/
  stack : List Pc
  /-- The entries of the circular stack buffer that hold no live return address, in the order further
  pops reach them (rule R43, `STACK_WRAP` true). -/
  stale : List Pc
  /-- The general-purpose file registers by number (rule R49). -/
  ram : List Host.Cell
  /-- Program memory by word address (rule R61); no step changes it (rule R79). -/
  prog : List (Nat × InstrWord)
  /-- The watchdog timer's counter (rule R44). -/
  wdt : Nat
  /-- The watchdog prescaler's counter (rule R45). -/
  wdtPrescaler : Nat
  /-- Running or asleep (rule R46). -/
  mode : Mode
  /-- Elapsed instruction cycles (rule R47). -/
  cycles : Nat
  /-- Set by an interrupt wake-up: one instruction executes before interrupts are looked at again
  (rule R245(c)). -/
  intHoldoff : Bool
  /-- THE MODEL'S OWN: the environment's answers at the boundaries to come; after the last, quiet. -/
  inputs : List BoundaryInput
  /-- THE MODEL'S OWN: the writes to device registers so far as (number, value), newest first (rule R69,
  "records a write as an output event"). -/
  outputs : List (Nat × Byte)
  /-- THE MODEL'S OWN: how many free values have been drawn; no statement rests on it. -/
  freeIx : Nat
  deriving DecidableEq, Repr

/-- The machine after a power-on reset with the profile P-GK (rules R51, R260), nothing in program memory.
`W`, `FSR`, `C`, `DC`, `Z`, the general-purpose registers and the stack entries are unspecified in the
spec; their zeros are DESIGN CHOICE (assumption 5). `OPTION_REG` is the family's 0xFF, PRESUMED
(assumption 2). -/
def State.reset : State where
  cfg := profilePGK
  w := 0x00
  status := 0x18
  fsr := 0x00
  pclath := 0
  optionReg := 0xFF
  gieReg := 0x00
  pc := 0x0000
  stack := []
  stale := [0, 0, 0, 0, 0, 0, 0, 0]
  ram := []
  prog := []
  wdt := 0
  wdtPrescaler := 0
  mode := .run
  cycles := 0
  intHoldoff := false
  inputs := []
  outputs := []
  freeIx := 0

end Sys2Proof.Machine
end

