-- ==== Sys2Proof/Machine/Flags.lean ====
section
/-! DEFINITION. The flags (10_state.md rules R23 to R31, R36, R50) and every flag computation: the helpers
`Add8` and `Sub8` (rules R155, R156), the zero flag (rule R24) and the rotates through carry
(rules R152, R153). -/
namespace Sys2Proof.Machine

/-- The flag `C` (rule R25). -/
def State.flagC (s : State) : Bool := getBit s.status s.cfg.bitC
/-- The flag `DC` (rule R26). -/
def State.flagDc (s : State) : Bool := getBit s.status s.cfg.bitDc
/-- The flag `Z` (rule R24). -/
def State.flagZ (s : State) : Bool := getBit s.status s.cfg.bitZ
/-- The flag `PD` (rule R28). -/
def State.flagPd (s : State) : Bool := getBit s.status s.cfg.bitPd
/-- The flag `TO` (rule R27). -/
def State.flagTo (s : State) : Bool := getBit s.status s.cfg.bitTo
/-- `GIE` (rule R36). -/
def State.gie (s : State) : Bool := getBit s.gieReg s.cfg.bitGie

/-- `STATUS` with the bit at `pos` equal to `x`, every other bit unchanged (rule R29). -/
def State.putStatusBit (s : State) (pos : BitNum) (x : Bool) : State :=
  { s with status := putBit s.status pos x }

/-- `C <- x` (rule R25). -/
def State.setC (s : State) (x : Bool) : State := s.putStatusBit s.cfg.bitC x
/-- `DC <- x` (rule R26). -/
def State.setDc (s : State) (x : Bool) : State := s.putStatusBit s.cfg.bitDc x
/-- `Z <- x` (rule R24). -/
def State.setZ (s : State) (x : Bool) : State := s.putStatusBit s.cfg.bitZ x
/-- `PD <- x` (rule R28). -/
def State.setPd (s : State) (x : Bool) : State := s.putStatusBit s.cfg.bitPd x
/-- `TO <- x` (rule R27). -/
def State.setTo (s : State) (x : Bool) : State := s.putStatusBit s.cfg.bitTo x
/-- `GIE <- x` (rule R36). -/
def State.setGie (s : State) (x : Bool) : State :=
  { s with gieReg := putBit s.gieReg s.cfg.bitGie x }

/-- `Z <- (r = 0x00)` (rule R24). -/
def State.setZOf (s : State) (r : Byte) : State := s.setZ (r == 0)

/-- The bits of `STATUS` that a write to it as a file register leaves alone: `TO` and `PD` (rule R31). -/
def Config.heldStatusBits (c : Config) : Byte := bitMask c.bitTo ||| bitMask c.bitPd

/-- The value `STATUS` holds after the file-register write of `v` over `old` (rule R31, first half; the
flags an instruction names are written after it). -/
def statusAfterWrite (c : Config) (old v : Byte) : Byte :=
  (v &&& ~~~ Config.heldStatusBits c) ||| (old &&& Config.heldStatusBits c)

/-- The result of `Add8` or `Sub8`: `(r, c, dc, z)`. -/
structure AluResult where
  /-- The 8-bit result. -/
  r : Byte
  /-- The carry. -/
  c : Bool
  /-- The digit carry. -/
  dc : Bool
  /-- The zero flag. -/
  z : Bool
  deriving DecidableEq, Repr

/-- The 9-bit sum of two bytes and a carry in. -/
def sum9 (a b : Byte) (cin : Bool) : BitVec 9 :=
  a.setWidth 9 + b.setWidth 9 + (BitVec.ofBool cin).setWidth 9

/-- The 5-bit sum of two low nibbles and a carry in. -/
def sum5 (a b : Byte) (cin : Bool) : BitVec 5 :=
  (lowNibble a).setWidth 5 + (lowNibble b).setWidth 5 + (BitVec.ofBool cin).setWidth 5

/-- The four results of a 9-bit sum and a 5-bit sum (rules R155, R156). -/
def aluOf (s : BitVec 9) (n : BitVec 5) : AluResult :=
  let r : Byte := s.setWidth 8
  { r := r, c := s.getLsbD 8, dc := n.getLsbD 4, z := r == 0 }

/-- `Add8(a, b)` (rule R155). -/
def add8 (a b : Byte) : AluResult := aluOf (sum9 a b false) (sum5 a b false)

/-- `Sub8(m, s)`, minuend `m` and subtrahend `s` (rule R156). -/
def sub8 (m s : Byte) : AluResult := aluOf (sum9 m (~~~ s) true) (sum5 m (~~~ s) true)

/-- `C <- c; DC <- dc; Z <- z` (rules R140 to R143). -/
def State.setCDcZ (s : State) (a : AluResult) : State := ((s.setC a.c).setDc a.dc).setZ a.z

/-- `v[6:0] ++ C` (rule R152). -/
def rotateLeft (v : Byte) (c : Bool) : Byte := v.extractLsb' 0 7 ++ BitVec.ofBool c

/-- `C ++ v[7:1]` (rule R153). -/
def rotateRight (v : Byte) (c : Bool) : Byte := BitVec.ofBool c ++ v.extractLsb' 1 7

end Sys2Proof.Machine
end

