-- ==== Sys2Proof/Machine/Ops.lean ====
section
/-! DEFINITION. The named operations over memory, stack and program counter that the meanings share:
`MemRead` and `MemWrite` (rule R66), `Push` and `Pop` (rules R41 to R43), how an instruction leaves `pc`
(rules R9, R38, R39, R190), interrupt entry (rule R236) with the return beside it (rules R197 to R199,
R237), and the fetch (rule R62). -/
namespace Sys2Proof.Machine

/-! ### Data memory -/

/-- The content of a cell (rule R66). `INDF` stands here only where `FSR` itself selects `INDF`
(rule R65: a read returns 0x00); the program counter's low byte reads as that of `pc + 1` (rule R48); a
device register gives a free value (rule R69). -/
def State.readCell (s : State) : Cell → Byte
  | .indf => 0x00
  | .fsr => s.fsr
  | .status => s.status
  | .pclath => (0 : BitVec 3) ++ s.pclath
  | .optionReg => s.optionReg
  | .gieReg => s.gieReg
  | .pcl => (s.pc + 1).extractLsb' 0 8
  | .gpr n => Memory.read s.ram n
  | .peripheral _ => Config.peripheralByte s.freeIx
  | .unimplemented => 0x00

/-- What reading a cell does besides giving its content: nothing, but for a device register, whose next
read gives the next free value (rules R49, R69, R70). -/
def State.afterReadCell (s : State) : Cell → State
  | .peripheral _ => { s with freeIx := s.freeIx + 1 }
  | .indf => s
  | .fsr => s
  | .status => s
  | .pclath => s
  | .optionReg => s
  | .gieReg => s
  | .pcl => s
  | .gpr _ => s
  | .unimplemented => s

/-- Store a byte into a cell (rule R66): `TO` and `PD` keep their values (rule R31), `PCLATH` keeps five
bits (rule R34), a write to no cell is discarded (rules R65, R68), a write to a device register is an
output event (rule R69). A write to the program counter is the `pc` of the instruction's end
(`State.finish`, rule R48) and stores nothing here. A write to the `FSR` cell changes `FSR` also where it came
through `INDF` with `FSR` pointing at itself: DESIGN CHOICE (assumption 26; rules R33 and R71 say of an
access through `INDF` that it never changes `FSR`). -/
def State.writeCell (s : State) (c : Cell) (v : Byte) : State :=
  match c with
  | .indf => s
  | .fsr => { s with fsr := v }
  | .status => { s with status := statusAfterWrite s.cfg s.status v }
  | .pclath => { s with pclath := v.extractLsb' 0 5 }
  | .optionReg => { s with optionReg := v }
  | .gieReg => { s with gieReg := v }
  | .pcl => s
  | .gpr n => { s with ram := Memory.write s.ram n v }
  | .peripheral n => { s with outputs := (n, v) :: s.outputs }
  | .unimplemented => s

/-- `MemRead(a, 1)` (rule R66). -/
def State.memRead (s : State) (a : DataAddr) : Byte := s.readCell (s.cfg.resolve a)

/-- `MemWrite(a, 1, v)` (rule R66). -/
def State.memWrite (s : State) (a : DataAddr) (v : Byte) : State := s.writeCell (s.cfg.resolve a) v

/-! ### The return stack -/

/-- `Push(v)` (rules R41, R43): on a full stack it wraps over the oldest entry if `STACK_WRAP` is true and
has no result otherwise. -/
def State.push (s : State) (v : Pc) : Option State :=
  if s.stack.length < s.cfg.stackDepth then
    some { s with stack := v :: s.stack, stale := s.stale.dropLast }
  else if s.cfg.stackWrap then
    some { s with stack := (v :: s.stack).take s.cfg.stackDepth }
  else
    none

/-- `Pop()` (rules R42, R43): on an empty stack it gives the entry the circular pointer reaches if
`STACK_WRAP` is true and has no result otherwise. -/
def State.pop (s : State) : Option (Pc × State) :=
  match s.stack with
  | v :: rest => some (v, { s with stack := rest, stale := s.stale ++ [v] })
  | [] =>
    if s.cfg.stackWrap then
      match s.stale with
      | v :: rest => some (v, { s with stale := rest ++ [v] })
      | [] => none
    else
      none

/-! ### The end of an instruction -/

/-- `pc <- pc + 1`, one cycle (rules R9, R39, R271). -/
def State.advance (s : State) : State := { s with pc := s.pc + 1, cycles := s.cycles + 1 }

/-- `pc <- a`, two cycles (rules R195, R271). -/
def State.jump (s : State) (a : Pc) : State := { s with pc := a, cycles := s.cycles + 2 }

/-- A skip where the condition holds, `pc + 1` otherwise (rule R190). -/
def State.skipIf (s : State) (b : Bool) : State := if b then s.jump (s.pc + 2) else s.advance

/-- The end of an instruction that may have written the program counter: at the written address, or at
`pc + 1` (rules R9, R48). -/
def State.finish (s : State) : Option Pc → State
  | some a => s.jump a
  | none => s.advance

/-- The end of INCFSZ and DECFSZ. Where the instruction both writes the program counter and skips, the
spec gives no address: a free value (assumption 15). -/
def State.finishSkip (s : State) (skip : Bool) : Option Pc → State
  | none => s.skipIf skip
  | some a =>
    if skip then { s.jump (Config.skipPclTarget s.freeIx) with freeIx := s.freeIx + 1 } else s.jump a

/-- `PCLATH[4:3] ++ k`, the target of GOTO and CALL (rules R75, R195, R196). -/
def State.target (s : State) (k : Target) : Pc := s.pclath.extractLsb' 3 2 ++ k

/-! ### Interrupt entry and the returns -/

/-- INTERRUPT ENTRY, the one exception entry of the hardware (rule R236): `GIE <- 0; Push(pc);
pc <- INT_VECTOR`, nothing else saved or changed. -/
def State.interruptEntry (s : State) : Host.Outcome State Fault Refusal :=
  match (s.setGie false).push s.pc with
  | some t => .next { t with pc := s.cfg.intVector }
  | none => .refused .stackOverflow

/-- `pc <- Pop()` and then the instruction's own effect (rules R197, R198, R199); with an empty stack
refused, and then nothing is written. -/
def State.popReturn (s : State) (effect : State → State) : Host.Outcome State Fault Refusal :=
  match s.pop with
  | some (a, t) => .next (effect (t.jump a))
  | none => .refused .stackUnderflow

/-- RETURN FROM INTERRUPT (rules R199, R237): `pc <- Pop(); GIE <- 1`. -/
def State.returnFromInterrupt (s : State) : Host.Outcome State Fault Refusal :=
  s.popReturn (·.setGie true)

/-! ### Fetch -/

/-- What a fetch gives. -/
inductive Fetched where
  /-- The word at the address. -/
  | word (w : InstrWord)
  /-- No instruction was placed there. -/
  | noInstruction
  /-- The address is at or above `PROG_WORDS`. -/
  | outOfRange
  deriving DecidableEq, Repr

/-- The program address a fetch reads: `pc`, or `pc` modulo `PROG_WORDS` where fetches wrap (rule R62). -/
def State.fetchAddr (s : State) : Nat :=
  if s.cfg.fetchWraps then s.pc.toNat % s.cfg.progWords else s.pc.toNat

/-- The fetch (rule R62). -/
def State.fetch (s : State) : Fetched :=
  if s.fetchAddr < s.cfg.progWords then
    match ProgMem.read s.prog s.fetchAddr with
    | some w => .word w
    | none => .noInstruction
  else
    .outOfRange

end Sys2Proof.Machine
end

