-- ==== Sys2Proof/Machine/Operands.lean ====
section
/-! DEFINITION. The operand forms: the effective address of an `f` operand (rules R64, R65), the file
register `x[f]` it selects (rule R7), the destination `d` (rule R8), and the common end of every
instruction with an `f` operand, in the order of rule R71: destination, flags, `pc`. -/
namespace Sys2Proof.Machine

/-- The number a source of `BankBits` stands for (rules R3, R64). A stack entry that holds no live address is
that of the circular buffer, and one beyond the buffer is 0. -/
def State.bankValue (s : State) : BankSource → Nat
  | .w => s.w.toNat
  | .status => s.status.toNat
  | .fsr => s.fsr.toNat
  | .pclath => s.pclath.toNat
  | .optionReg => s.optionReg.toNat
  | .gieReg => s.gieReg.toNat
  | .pc => s.pc.toNat
  | .gpr n => (Memory.read s.ram n).toNat
  | .stackDepth => s.stack.length
  | .stackEntry i => ((s.stack ++ s.stale)[i]?.getD 0).toNat
  | .wdt => s.wdt
  | .wdtPrescaler => s.wdtPrescaler

/-- The bit a decision tree gives where its sources have the values `value`. -/
def evalBank (value : BankSource → Nat) : BankSelect → Bool
  | .fixed b => b
  | .test source pos ifSet ifClear =>
    if (value source).testBit pos then evalBank value ifSet else evalBank value ifClear

/-- `BankBits(state)` (rules R3, R64). -/
def State.bankBit (s : State) : Bool := evalBank s.bankValue s.cfg.bank

/-- `DA(f) = BankBits(state) ++ f` (rule R64). -/
def State.directAddr (s : State) (f : FileNum) : DataAddr := BitVec.ofBool s.bankBit ++ f

/-- `EA(f)` (rule R65): `FSR` where the direct address selects `INDF`, one level only. DESIGN CHOICE
(assumption 26): where `FSR` holds a data address of the `FSR` cell itself, the address is kept, so that a
write through `INDF` is a write to `FSR`; rules R33, R65 and R71 say besides that such an access leaves `FSR`
unchanged, and do not say which holds there. -/
def State.effAddr (s : State) (f : FileNum) : DataAddr :=
  if s.cfg.resolve (s.directAddr f) = .indf then s.fsr else s.directAddr f

/-- The cell an `f` operand selects (rules R65, R66). -/
def State.cellOf (s : State) (f : FileNum) : Cell := s.cfg.resolve (s.effAddr f)

/-- `x[f]` as a value (rule R7). -/
def State.file (s : State) (f : FileNum) : Byte := s.memRead (s.effAddr f)

/-- The state once `x[f]` has been read (rules R69, R70). -/
def State.afterRead (s : State) (f : FileNum) : State := s.afterReadCell (s.cellOf f)

/-- `Dest(f, d, v)` (rule R8). -/
def State.dest (s : State) (f : FileNum) (d : Dest) (v : Byte) : State :=
  match d with
  | .w => { s with w := v }
  | .f => s.memWrite (s.effAddr f) v

/-- The address the instruction goes on at where its destination is the program counter's low byte:
`PCLATH[4:0] ++ v` (rule R48). -/
def State.pclTarget (s : State) (f : FileNum) (d : Dest) (v : Byte) : Option Pc :=
  match d with
  | .w => none
  | .f => if s.cellOf f = .pcl then some (s.pclath ++ v) else none

/-- The end of an instruction with a destination operand (rule R71): `Dest(f, d, v)`, then the flags it
names, then `pc`. -/
def State.complete (s : State) (f : FileNum) (d : Dest) (v : Byte) (flags : State → State) : State :=
  (flags (s.dest f d v)).finish (s.pclTarget f d v)

/-- The end of INCFSZ and DECFSZ: `Dest(f, d, r)`, then a skip if the result is zero
(rules R193, R194). -/
def State.completeSkip (s : State) (f : FileNum) (d : Dest) (r : Byte) : State :=
  (s.dest f d r).finishSkip (r == 0) (s.pclTarget f d r)

end Sys2Proof.Machine
end

