-- ==== Sys2Proof/Machine/ArithLogic.lean ====
section
/-! DEFINITION. The arithmetic and logic instructions (41_arithmetic_logic.md, A.7 to A.21). -/
namespace Sys2Proof.Machine

/-- A literal instruction that writes `W` and `C`, `DC`, `Z` (rules R140, R142). -/
def State.literalArith (s : State) (a : AluResult) : State :=
  ({ s with w := a.r }.setCDcZ a).advance

/-- A literal instruction that writes `W` and `Z` (rules R144, R146, R148). -/
def State.literalLogic (s : State) (r : Byte) : State :=
  ({ s with w := r }.setZOf r).advance

/-- A register instruction that writes `C`, `DC`, `Z` (rules R141, R143). -/
def State.fileArith (s : State) (f : FileNum) (d : Dest) (a : AluResult) : State :=
  (s.afterRead f).complete f d a.r (·.setCDcZ a)

/-- A register instruction that writes `Z` (rules R145, R147, R149, R150, R151, R154). -/
def State.fileLogic (s : State) (f : FileNum) (d : Dest) (r : Byte) : State :=
  (s.afterRead f).complete f d r (·.setZOf r)

/-- A rotate: the result and the new `C` (rules R152, R153). -/
def State.fileRotate (s : State) (f : FileNum) (d : Dest) (r : Byte) (c : Bool) : State :=
  (s.afterRead f).complete f d r (·.setC c)

/-- ADDLW k (rule R140). -/
def execAddlw (k : Byte) (s : State) : Host.Outcome State Fault Refusal :=
  .next (s.literalArith (add8 s.w k))

/-- ADDWF f, d (rule R141). -/
def execAddwf (f : FileNum) (d : Dest) (s : State) : Host.Outcome State Fault Refusal :=
  .next (s.fileArith f d (add8 s.w (s.file f)))

/-- SUBLW k (rule R142): the literal is the minuend, `W` the subtrahend. -/
def execSublw (k : Byte) (s : State) : Host.Outcome State Fault Refusal :=
  .next (s.literalArith (sub8 k s.w))

/-- SUBWF f, d (rule R143): the register is the minuend, `W` the subtrahend. -/
def execSubwf (f : FileNum) (d : Dest) (s : State) : Host.Outcome State Fault Refusal :=
  .next (s.fileArith f d (sub8 (s.file f) s.w))

/-- ANDLW k (rule R144; that it writes `Z` is the spec's decision D13). -/
def execAndlw (k : Byte) (s : State) : Host.Outcome State Fault Refusal :=
  .next (s.literalLogic (s.w &&& k))

/-- ANDWF f, d (rule R145). -/
def execAndwf (f : FileNum) (d : Dest) (s : State) : Host.Outcome State Fault Refusal :=
  .next (s.fileLogic f d (s.w &&& s.file f))

/-- IORLW k (rule R146). -/
def execIorlw (k : Byte) (s : State) : Host.Outcome State Fault Refusal :=
  .next (s.literalLogic (s.w ||| k))

/-- IORWF f, d (rule R147). -/
def execIorwf (f : FileNum) (d : Dest) (s : State) : Host.Outcome State Fault Refusal :=
  .next (s.fileLogic f d (s.w ||| s.file f))

/-- XORLW k (rule R148). -/
def execXorlw (k : Byte) (s : State) : Host.Outcome State Fault Refusal :=
  .next (s.literalLogic (s.w ^^^ k))

/-- XORWF f, d (rule R149). -/
def execXorwf (f : FileNum) (d : Dest) (s : State) : Host.Outcome State Fault Refusal :=
  .next (s.fileLogic f d (s.w ^^^ s.file f))

/-- INCF f, d (rule R150): `Z` only, `C` and `DC` not changed. -/
def execIncf (f : FileNum) (d : Dest) (s : State) : Host.Outcome State Fault Refusal :=
  .next (s.fileLogic f d (s.file f + 1))

/-- DECF f, d (rule R151): `Z` only, `C` and `DC` not changed. -/
def execDecf (f : FileNum) (d : Dest) (s : State) : Host.Outcome State Fault Refusal :=
  .next (s.fileLogic f d (s.file f - 1))

/-- RLF f, d (rule R152): `r <- v[6:0] ++ C; cnew <- v[7]`. -/
def execRlf (f : FileNum) (d : Dest) (s : State) : Host.Outcome State Fault Refusal :=
  .next (s.fileRotate f d (rotateLeft (s.file f) s.flagC) (getBit (s.file f) 7))

/-- RRF f, d (rule R153): `r <- C ++ v[7:1]; cnew <- v[0]`. -/
def execRrf (f : FileNum) (d : Dest) (s : State) : Host.Outcome State Fault Refusal :=
  .next (s.fileRotate f d (rotateRight (s.file f) s.flagC) (getBit (s.file f) 0))

/-- COMF f, d (rule R154): the one's complement. -/
def execComf (f : FileNum) (d : Dest) (s : State) : Host.Outcome State Fault Refusal :=
  .next (s.fileLogic f d (~~~ s.file f))

end Sys2Proof.Machine
end

