-- ==== Sys2Proof/Machine/BitOps.lean ====
section
/-! DEFINITION. The bit-oriented instructions (42_bit_operations.md, A.22 and A.23): a read-modify-write of
the whole cell that names no flag. -/
namespace Sys2Proof.Machine

/-- BCF f, b (rule R180). -/
def execBcf (f : FileNum) (b : BitNum) (s : State) : Host.Outcome State Fault Refusal :=
  .next ((s.afterRead f).complete f .f (clearBit (s.file f) b) id)

/-- BSF f, b (rule R181). -/
def execBsf (f : FileNum) (b : BitNum) (s : State) : Host.Outcome State Fault Refusal :=
  .next ((s.afterRead f).complete f .f (raiseBit (s.file f) b) id)

end Sys2Proof.Machine
end

