-- ==== Sys2Proof/Machine/Control.lean ====
section
/-! DEFINITION. The skip and control-transfer instructions (43_skip_and_control.md, A.24 to A.32). -/
namespace Sys2Proof.Machine

/-- BTFSC f, b (rule R191): skip if bit `b` is 0. -/
def execBtfsc (f : FileNum) (b : BitNum) (s : State) : Host.Outcome State Fault Refusal :=
  .next ((s.afterRead f).skipIf (!getBit (s.file f) b))

/-- BTFSS f, b (rule R192): skip if bit `b` is 1. -/
def execBtfss (f : FileNum) (b : BitNum) (s : State) : Host.Outcome State Fault Refusal :=
  .next ((s.afterRead f).skipIf (getBit (s.file f) b))

/-- INCFSZ f, d (rule R193): increment, skip if the result is 0, no flag. -/
def execIncfsz (f : FileNum) (d : Dest) (s : State) : Host.Outcome State Fault Refusal :=
  .next ((s.afterRead f).completeSkip f d (s.file f + 1))

/-- DECFSZ f, d (rule R194): decrement, skip if the result is 0, no flag. -/
def execDecfsz (f : FileNum) (d : Dest) (s : State) : Host.Outcome State Fault Refusal :=
  .next ((s.afterRead f).completeSkip f d (s.file f - 1))

/-- GOTO k (rule R195): `pc <- PCLATH[4:3] ++ k`. -/
def execGoto (k : Target) (s : State) : Host.Outcome State Fault Refusal :=
  .next (s.jump (s.target k))

/-- CALL k (rule R196): `Push((pc + 1)[12:0]); pc <- PCLATH[4:3] ++ k`. -/
def execCall (k : Target) (s : State) : Host.Outcome State Fault Refusal :=
  match s.push (s.pc + 1) with
  | some t => .next (t.jump (s.target k))
  | none => .refused .stackOverflow

/-- RETURN (rule R197): `pc <- Pop()`. -/
def execRet (s : State) : Host.Outcome State Fault Refusal := s.popReturn id

/-- RETLW k (rule R198): `W <- k; pc <- Pop()`; refused with `W` not written. -/
def execRetlw (k : Byte) (s : State) : Host.Outcome State Fault Refusal :=
  s.popReturn fun t => { t with w := k }

/-- RETFIE (rules R199, R237): `pc <- Pop(); GIE <- 1`. -/
def execRetfie (s : State) : Host.Outcome State Fault Refusal := s.returnFromInterrupt

end Sys2Proof.Machine
end

