-- ==== Sys2Proof/Machine/System.lean ====
section
/-! DEFINITION. The system instructions (44_system.md, A.33 to A.35). -/
namespace Sys2Proof.Machine

/-- `wdt <- 0; wdt_prescaler <- 0`: the counter and the prescaler's counter; the ratio is not touched
(rules R44, R45, R221, R222). -/
def State.clearWatchdog (s : State) : State := { s with wdt := 0, wdtPrescaler := 0 }

/-- NOP (rule R220): only `pc` and time move on. -/
def execNop (s : State) : Host.Outcome State Fault Refusal := .next s.advance

/-- CLRWDT (rule R221). -/
def execClrwdt (s : State) : Host.Outcome State Fault Refusal :=
  .next ((s.clearWatchdog.setTo true).setPd true).advance

/-- SLEEP (rule R222): `pc` already at the next instruction while asleep (D23). -/
def execSleep (s : State) : Host.Outcome State Fault Refusal :=
  .next { ((s.clearWatchdog.setTo true).setPd false).advance with mode := .sleep }

end Sys2Proof.Machine
end

