-- ==== Sys2Proof/Machine/Transfer.lean ====
section
/-! DEFINITION. The data transfer instructions (40_data_transfer.md, A.1 to A.6). -/
namespace Sys2Proof.Machine

/-- MOVLW k (rule R120): `W <- k`, no flag. -/
def execMovlw (k : Byte) (s : State) : Host.Outcome State Fault Refusal :=
  .next { s with w := k }.advance

/-- MOVWF f (rule R121): `x[f] <- W`, `x[f]` not read, no flag. -/
def execMovwf (f : FileNum) (s : State) : Host.Outcome State Fault Refusal :=
  .next (s.complete f .f s.w id)

/-- MOVF f, d (rule R122): `v <- x[f]; Dest(f, d, v); Z`. -/
def execMovf (f : FileNum) (d : Dest) (s : State) : Host.Outcome State Fault Refusal :=
  let v := s.file f
  .next ((s.afterRead f).complete f d v (·.setZOf v))

/-- CLRW (rule R123): `W <- 0x00; Z <- 1`. -/
def execClrw (s : State) : Host.Outcome State Fault Refusal :=
  .next ({ s with w := 0x00 }.setZ true).advance

/-- CLRF f (rule R124): `x[f] <- 0x00; Z <- 1`, `x[f]` not read. -/
def execClrf (f : FileNum) (s : State) : Host.Outcome State Fault Refusal :=
  .next (s.complete f .f 0x00 (·.setZ true))

/-- SWAPF f, d (rule R125): the nibbles exchange places, no flag. -/
def execSwapf (f : FileNum) (d : Dest) (s : State) : Host.Outcome State Fault Refusal :=
  .next ((s.afterRead f).complete f d (swapNibbles (s.file f)) id)

end Sys2Proof.Machine
end

