-- ==== Sys2Proof/Machine/Dispatch.lean ====
section
/-! DEFINITION. The dispatch: one arm per instruction, each one direct call of its meaning. -/
namespace Sys2Proof.Machine

/-- The meaning of a decoded instruction (rules R120 to R222). -/
def exec (i : Instr) (s : State) : Host.Outcome State Fault Refusal :=
  match i with
  | .movlw k => Sys2Proof.Machine.execMovlw k s
  | .movwf f => Sys2Proof.Machine.execMovwf f s
  | .movf f d => Sys2Proof.Machine.execMovf f d s
  | .clrw => Sys2Proof.Machine.execClrw s
  | .clrf f => Sys2Proof.Machine.execClrf f s
  | .swapf f d => Sys2Proof.Machine.execSwapf f d s
  | .addlw k => Sys2Proof.Machine.execAddlw k s
  | .addwf f d => Sys2Proof.Machine.execAddwf f d s
  | .sublw k => Sys2Proof.Machine.execSublw k s
  | .subwf f d => Sys2Proof.Machine.execSubwf f d s
  | .andlw k => Sys2Proof.Machine.execAndlw k s
  | .andwf f d => Sys2Proof.Machine.execAndwf f d s
  | .iorlw k => Sys2Proof.Machine.execIorlw k s
  | .iorwf f d => Sys2Proof.Machine.execIorwf f d s
  | .xorlw k => Sys2Proof.Machine.execXorlw k s
  | .xorwf f d => Sys2Proof.Machine.execXorwf f d s
  | .incf f d => Sys2Proof.Machine.execIncf f d s
  | .decf f d => Sys2Proof.Machine.execDecf f d s
  | .rlf f d => Sys2Proof.Machine.execRlf f d s
  | .rrf f d => Sys2Proof.Machine.execRrf f d s
  | .comf f d => Sys2Proof.Machine.execComf f d s
  | .bcf f b => Sys2Proof.Machine.execBcf f b s
  | .bsf f b => Sys2Proof.Machine.execBsf f b s
  | .btfsc f b => Sys2Proof.Machine.execBtfsc f b s
  | .btfss f b => Sys2Proof.Machine.execBtfss f b s
  | .incfsz f d => Sys2Proof.Machine.execIncfsz f d s
  | .decfsz f d => Sys2Proof.Machine.execDecfsz f d s
  | .goto k => Sys2Proof.Machine.execGoto k s
  | .call k => Sys2Proof.Machine.execCall k s
  | .ret => Sys2Proof.Machine.execRet s
  | .retlw k => Sys2Proof.Machine.execRetlw k s
  | .retfie => Sys2Proof.Machine.execRetfie s
  | .nop => Sys2Proof.Machine.execNop s
  | .clrwdt => Sys2Proof.Machine.execClrwdt s
  | .sleep => Sys2Proof.Machine.execSleep s

end Sys2Proof.Machine
end

