-- ==== Sys2Proof/Machine/Events.lean ====
section
/-! DEFINITION. What happens at an instruction boundary besides executing an instruction
(60_exceptions.md, 70_reset_and_hazards.md): the resets, the watchdog time-out, the wake-ups, and which of
them a boundary's input brings about. Interrupt entry itself is `State.interruptEntry` in Ops.lean. -/
namespace Sys2Proof.Machine

/-- The environment's answer at the coming boundary. -/
def State.input (s : State) : BoundaryInput := s.inputs.headD quietInput

/-- The state with the boundary's input used up: the watchdog's counters as the environment moved them
(rules R44, R243: only where the watchdog is enabled), and the one-instruction holdoff of rule R245(c)
over. -/
def State.takeInput (s : State) : State :=
  let c := if s.cfg.wdtEnabled then s.input.wdtCounters.getD (s.wdt, s.wdtPrescaler)
           else (s.wdt, s.wdtPrescaler)
  { s with inputs := s.inputs.tail, wdt := c.1, wdtPrescaler := c.2, intHoldoff := false }

/-- A list of stack entries cut or filled up with zeros to length `n`. -/
def fitEntries : Nat → List Pc → List Pc
  | 0, _ => []
  | n + 1, [] => 0 :: fitEntries n []
  | n + 1, e :: rest => e :: fitEntries n rest

/-- `STATUS` with the bits `C`, `DC`, `Z` as given, `TO` and `PD` as given and every other bit 0
(rule R51). -/
def resetStatus (c : Config) (cf dcf zf tof pdf : Bool) : Byte :=
  putBit (putBit (putBit (putBit (putBit 0 c.bitC cf) c.bitDc dcf) c.bitZ zf) c.bitTo tof) c.bitPd pdf

/-- What every reset does (rules R51, R260): the elements the table fixes, and the stack entries and
`OPTION_REG`, which it leaves unspecified, from the environment. -/
def State.resetCommon (s : State) (u : Unspecified) (status : Byte) : State :=
  { s with
    pc := s.cfg.resetVector, pclath := 0, gieReg := 0, status := status,
    optionReg := u.optionReg, stack := [], stale := fitEntries s.cfg.stackDepth u.entries,
    wdt := 0, wdtPrescaler := 0, mode := .run, cycles := 0, intHoldoff := false }

/-- Power-on reset (rules R51, R260): `TO` = `PD` = 1; `W`, `FSR`, the general-purpose registers and `C`,
`DC`, `Z` unspecified. -/
def State.powerOnReset (s : State) (u : Unspecified) : State :=
  { s.resetCommon u (resetStatus s.cfg u.c u.dc u.z true true) with
    w := u.w, fsr := u.fsr, ram := Memory.ofCells u.ram }

/-- The external reset pin (rule R261): `TO` and `PD` unchanged when awake, 1 and 0 when asleep; `W`, `FSR`,
the general-purpose registers and `C`, `DC`, `Z` keep their values (rule R260). -/
def State.externalReset (s : State) (u : Unspecified) : State :=
  match s.mode with
  | .run => s.resetCommon u (resetStatus s.cfg s.flagC s.flagDc s.flagZ s.flagTo s.flagPd)
  | .sleep => s.resetCommon u (resetStatus s.cfg s.flagC s.flagDc s.flagZ true false)

/-- The watchdog reset of a time-out while running (rules R244, R261): `TO` = 0, `PD` = 1; `W`, `FSR`, the
general-purpose registers and `C`, `DC`, `Z` keep their values. -/
def State.watchdogReset (s : State) (u : Unspecified) : State :=
  s.resetCommon u (resetStatus s.cfg s.flagC s.flagDc s.flagZ false true)

/-- The wake-up of a time-out while asleep (rules R244, R245(b)): `TO` = 0 and `PD` = 0, the watchdog
restarts from 0, nothing is reset. -/
def State.watchdogWake (s : State) : State :=
  { ((s.setTo false).setPd false).clearWatchdog with mode := .run }

/-- The wake-up of an interrupt request while asleep, whatever `GIE` is (rule R245(c)): the instruction at
`pc` executes before interrupts are looked at again. -/
def State.interruptWake (s : State) : State := { s with mode := .run, intHoldoff := true }

/-- What the coming boundary brings. -/
inductive BoundaryAction where
  /-- A reset (rule R260). -/
  | reset (k : ResetKind)
  /-- A watchdog time-out while running (rule R244). -/
  | watchdogReset
  /-- A watchdog time-out while asleep (rule R245(b)). -/
  | watchdogWake
  /-- An interrupt request while asleep (rule R245(c)). -/
  | interruptWake
  /-- Interrupt entry (rule R236). -/
  | interruptEntry
  /-- Asleep and nothing wakes the core (rule R246). -/
  | stayAsleep
  /-- The instruction at `pc` executes. -/
  | execute
  deriving DecidableEq, Repr

/-- What the coming boundary brings, in the order of rule R235: reset, then a watchdog time-out (only where
the watchdog is enabled, rule R243), then an interrupt. -/
def State.action (s : State) : BoundaryAction :=
  match s.input.reset with
  | some k => .reset k
  | none =>
    if s.cfg.wdtEnabled && s.input.wdtTimeout then
      match s.mode with
      | .run => .watchdogReset
      | .sleep => .watchdogWake
    else
      match s.mode with
      | .sleep => if s.input.intReq then .interruptWake else .stayAsleep
      | .run => if s.input.intReq && s.gie && !s.intHoldoff then .interruptEntry else .execute

/-- The state after a reset of either kind. -/
def State.resetBy (s : State) (u : Unspecified) : ResetKind → State
  | .powerOn => s.powerOnReset u
  | .external => s.externalReset u

end Sys2Proof.Machine
end

