-- ==== Sys2Proof/Machine/Step.lean ====
section
/-! DEFINITION. One step of the machine: one boundary, at which either an event of the environment happens
or the instruction at `pc` is fetched, decoded and executed (rules R9, R10, R235, R250). -/
namespace Sys2Proof.Machine

/-- Fetch, decode and execute the instruction at `pc` (rules R9, R62, R101, R108). -/
def State.runInstruction (s : State) : Host.Outcome State Fault Refusal :=
  match s.fetch with
  | .outOfRange => .refused .fetchOutOfRange
  | .noInstruction => .refused .noInstruction
  | .word w =>
    match decode w with
    | .error _ => .refused .illegalInstruction
    | .ok i => exec i s

/-- One step. -/
def step (s : State) : Host.Outcome State Fault Refusal :=
  match s.action with
  | .reset k => .next (s.takeInput.resetBy s.input.unspecified k)
  | .watchdogReset => .next (s.takeInput.watchdogReset s.input.unspecified)
  | .watchdogWake => .next s.takeInput.watchdogWake
  | .interruptWake => .next s.takeInput.interruptWake
  | .interruptEntry => s.takeInput.interruptEntry
  | .stayAsleep => .next s.takeInput
  | .execute => s.takeInput.runInstruction

/-- `s` with the word `w` where the next step fetches: at the fetch address of program memory, the core
running and the coming boundary quiet (a quiet input goes in front of any inputs there are). -/
def State.withFetchWord (s : State) (_nbits w : Nat) : State :=
  { s with
    prog := ProgMem.write s.prog s.fetchAddr (BitVec.ofNat 14 w)
    mode := .run
    inputs := match s.inputs with
      | [] => []
      | i :: rest => quietInput :: i :: rest }

end Sys2Proof.Machine
end

