-- ==== Sys2Proof/WellFormed.lean ====
section
/-! DEFINITION. Well-formedness. A decoded `Instr` is well formed by its types, so the checks stand where
ill-formed terms exist: an instruction WRITTEN with numbers for operands, whose ranges are rules R92 and
R102, and a parameter set, whose constraints are rules R3, R23 and R67. -/
namespace Sys2Proof

/-- The six operand forms of rule R92. -/
inductive Form where
  /-- Operands `f, d`. -/
  | fd
  /-- Operand `f`. -/
  | f
  /-- Operands `f, b`. -/
  | fb
  /-- Operand `k` of 8 bits. -/
  | k8
  /-- Operand `k` of 11 bits. -/
  | k11
  /-- No operand. -/
  | none
  deriving DecidableEq, Repr

/-- The 35 mnemonics, in the order of rule R2. -/
inductive Mnemonic where
  | movlw
  | movwf
  | movf
  | clrw
  | clrf
  | swapf
  | addlw
  | addwf
  | sublw
  | subwf
  | andlw
  | andwf
  | iorlw
  | iorwf
  | xorlw
  | xorwf
  | incf
  | decf
  | rlf
  | rrf
  | comf
  | bcf
  | bsf
  | btfsc
  | btfss
  | incfsz
  | decfsz
  | goto
  | call
  | ret
  | retlw
  | retfie
  | nop
  | clrwdt
  | sleep
  deriving DecidableEq, Repr

/-- The mnemonic of an instruction (rule R2). -/
def Instr.mnemonic : Instr → Mnemonic
  | .movlw _ => .movlw
  | .movwf _ => .movwf
  | .movf _ _ => .movf
  | .clrw => .clrw
  | .clrf _ => .clrf
  | .swapf _ _ => .swapf
  | .addlw _ => .addlw
  | .addwf _ _ => .addwf
  | .sublw _ => .sublw
  | .subwf _ _ => .subwf
  | .andlw _ => .andlw
  | .andwf _ _ => .andwf
  | .iorlw _ => .iorlw
  | .iorwf _ _ => .iorwf
  | .xorlw _ => .xorlw
  | .xorwf _ _ => .xorwf
  | .incf _ _ => .incf
  | .decf _ _ => .decf
  | .rlf _ _ => .rlf
  | .rrf _ _ => .rrf
  | .comf _ _ => .comf
  | .bcf _ _ => .bcf
  | .bsf _ _ => .bsf
  | .btfsc _ _ => .btfsc
  | .btfss _ _ => .btfss
  | .incfsz _ _ => .incfsz
  | .decfsz _ _ => .decfsz
  | .goto _ => .goto
  | .call _ => .call
  | .ret => .ret
  | .retlw _ => .retlw
  | .retfie => .retfie
  | .nop => .nop
  | .clrwdt => .clrwdt
  | .sleep => .sleep

/-- The operand form of each mnemonic (rule R92). -/
def Mnemonic.form : Mnemonic → Form
  | .movlw => .k8
  | .movwf => .f
  | .movf => .fd
  | .clrw => .none
  | .clrf => .f
  | .swapf => .fd
  | .addlw => .k8
  | .addwf => .fd
  | .sublw => .k8
  | .subwf => .fd
  | .andlw => .k8
  | .andwf => .fd
  | .iorlw => .k8
  | .iorwf => .fd
  | .xorlw => .k8
  | .xorwf => .fd
  | .incf => .fd
  | .decf => .fd
  | .rlf => .fd
  | .rrf => .fd
  | .comf => .fd
  | .bcf => .fb
  | .bsf => .fb
  | .btfsc => .fb
  | .btfss => .fb
  | .incfsz => .fd
  | .decfsz => .fd
  | .goto => .k11
  | .call => .k11
  | .ret => .none
  | .retlw => .k8
  | .retfie => .none
  | .nop => .none
  | .clrwdt => .none
  | .sleep => .none

/-- The operand `d` as the number it is written with (rule R105). -/
def Dest.toNat : Dest → Nat
  | .w => 0
  | .f => 1

/-- The operands of an instruction as numbers, in the written order of rule R103 (register first). -/
def Instr.operands : Instr → List Nat
  | .movlw k => [k.toNat]
  | .movwf f => [f.toNat]
  | .movf f d => [f.toNat, d.toNat]
  | .clrw => []
  | .clrf f => [f.toNat]
  | .swapf f d => [f.toNat, d.toNat]
  | .addlw k => [k.toNat]
  | .addwf f d => [f.toNat, d.toNat]
  | .sublw k => [k.toNat]
  | .subwf f d => [f.toNat, d.toNat]
  | .andlw k => [k.toNat]
  | .andwf f d => [f.toNat, d.toNat]
  | .iorlw k => [k.toNat]
  | .iorwf f d => [f.toNat, d.toNat]
  | .xorlw k => [k.toNat]
  | .xorwf f d => [f.toNat, d.toNat]
  | .incf f d => [f.toNat, d.toNat]
  | .decf f d => [f.toNat, d.toNat]
  | .rlf f d => [f.toNat, d.toNat]
  | .rrf f d => [f.toNat, d.toNat]
  | .comf f d => [f.toNat, d.toNat]
  | .bcf f b => [f.toNat, b.toNat]
  | .bsf f b => [f.toNat, b.toNat]
  | .btfsc f b => [f.toNat, b.toNat]
  | .btfss f b => [f.toNat, b.toNat]
  | .incfsz f d => [f.toNat, d.toNat]
  | .decfsz f d => [f.toNat, d.toNat]
  | .goto k => [k.toNat]
  | .call k => [k.toNat]
  | .ret => []
  | .retlw k => [k.toNat]
  | .retfie => []
  | .nop => []
  | .clrwdt => []
  | .sleep => []

/-- The range check of rule R102: the right number of operands for the form, each inside the range of
rule R92. -/
def Form.inRange : Form → List Nat → Bool
  | .fd, [x, y] => decide (x ≤ 127) && decide (y ≤ 1)
  | .f, [x] => decide (x ≤ 127)
  | .fb, [x, y] => decide (x ≤ 127) && decide (y ≤ 7)
  | .k8, [x] => decide (x ≤ 255)
  | .k11, [x] => decide (x ≤ 2047)
  | .none, [] => true
  | _, _ => false

/-- A written instruction (mnemonic and operand numbers) is well formed (rules R92, R102). -/
def wellFormed (m : Mnemonic) (ops : List Nat) : Bool := m.form.inRange ops

/-- Some address of the map selects a cell of this kind. -/
def Config.reaches (c : Config) (k : Cell) : Bool :=
  (List.range 256).any fun a => c.resolve (BitVec.ofNat 8 a) == k

/-- The constraints on the open parameters: the five flags at five distinct positions (rule R23), each
named register somewhere in the map (rule R67), a stack of at least one entry (rule R40), and at most
2^13 program words (rule R61). That each named register is ONE cell and that distinct general-purpose
numbers are distinct storage (rule R67) hold by the form of `Cell` and of the state. -/
def Config.wf (c : Config) : Bool :=
  decide ([c.bitC, c.bitDc, c.bitZ, c.bitPd, c.bitTo].Nodup)
    && [Cell.indf, .fsr, .status, .pclath, .optionReg, .gieReg].all c.reaches
    && decide (0 < c.stackDepth)
    && decide (c.progWords ≤ 8192)

end Sys2Proof
end

