-- ==== Sys2Proof/Machine/Asm.lean ====
section
/-! DEFINITION. The assembler syntax of 30_encoding.md section 5 (rules R102 to R106): a line of text to a
decoded instruction. It stands beside the machine: no step uses it. -/
namespace Sys2Proof

/-- The mnemonics as the source spells them, in upper case (rules R2, R103, R106). -/
def mnemonicNames : List (List Char × Mnemonic) :=
  [ (['M', 'O', 'V', 'L', 'W'], .movlw),
    (['M', 'O', 'V', 'W', 'F'], .movwf),
    (['M', 'O', 'V', 'F'], .movf),
    (['C', 'L', 'R', 'W'], .clrw),
    (['C', 'L', 'R', 'F'], .clrf),
    (['S', 'W', 'A', 'P', 'F'], .swapf),
    (['A', 'D', 'D', 'L', 'W'], .addlw),
    (['A', 'D', 'D', 'W', 'F'], .addwf),
    (['S', 'U', 'B', 'L', 'W'], .sublw),
    (['S', 'U', 'B', 'W', 'F'], .subwf),
    (['A', 'N', 'D', 'L', 'W'], .andlw),
    (['A', 'N', 'D', 'W', 'F'], .andwf),
    (['I', 'O', 'R', 'L', 'W'], .iorlw),
    (['I', 'O', 'R', 'W', 'F'], .iorwf),
    (['X', 'O', 'R', 'L', 'W'], .xorlw),
    (['X', 'O', 'R', 'W', 'F'], .xorwf),
    (['I', 'N', 'C', 'F'], .incf),
    (['D', 'E', 'C', 'F'], .decf),
    (['R', 'L', 'F'], .rlf),
    (['R', 'R', 'F'], .rrf),
    (['C', 'O', 'M', 'F'], .comf),
    (['B', 'C', 'F'], .bcf),
    (['B', 'S', 'F'], .bsf),
    (['B', 'T', 'F', 'S', 'C'], .btfsc),
    (['B', 'T', 'F', 'S', 'S'], .btfss),
    (['I', 'N', 'C', 'F', 'S', 'Z'], .incfsz),
    (['D', 'E', 'C', 'F', 'S', 'Z'], .decfsz),
    (['G', 'O', 'T', 'O'], .goto),
    (['C', 'A', 'L', 'L'], .call),
    (['R', 'E', 'T', 'U', 'R', 'N'], .ret),
    (['R', 'E', 'T', 'L', 'W'], .retlw),
    (['R', 'E', 'T', 'F', 'I', 'E'], .retfie),
    (['N', 'O', 'P'], .nop),
    (['C', 'L', 'R', 'W', 'D', 'T'], .clrwdt),
    (['S', 'L', 'E', 'E', 'P'], .sleep) ]

/-- The mnemonic a word spells, if it spells one. -/
def readMnemonic (word : List Char) : Option Mnemonic := mnemonicNames.lookup word

/-- A token of a line. -/
inductive AsmToken where
  /-- A run of characters other than blanks and commas. -/
  | word (cs : List Char)
  /-- The comma between operands. -/
  | comma
  deriving DecidableEq, Repr

/-- The token of a run of characters read so far (in reverse), if there are any. -/
def flushWord (acc : List Char) : List AsmToken := if acc = [] then [] else [.word acc.reverse]

/-- The tokens of a line up to its comment (rule R103: a comment runs from a semicolon to the end). -/
def asmTokens : List Char → List Char → List AsmToken
  | [], acc => flushWord acc
  | c :: rest, acc =>
    if c = ';' then flushWord acc
    else if c = ',' then flushWord acc ++ .comma :: asmTokens rest []
    else if c = ' ' ∨ c = '\t' then flushWord acc ++ asmTokens rest []
    else asmTokens rest (c :: acc)

/-- The value of a digit in a base of at most 16. -/
def digitValue (base : Nat) (c : Char) : Option Nat :=
  let v := if '0' ≤ c ∧ c ≤ '9' then some (c.toNat - 48)
    else if 'A' ≤ c ∧ c ≤ 'F' then some (c.toNat - 55)
    else if 'a' ≤ c ∧ c ≤ 'f' then some (c.toNat - 87)
    else none
  v.filter (· < base)

/-- The value of a non-empty run of digits after the value so far. -/
def readDigits (base : Nat) : Nat → List Char → Option Nat
  | n, [] => some n
  | n, c :: rest => (digitValue base c).bind fun d => readDigits base (n * base + d) rest

/-- A number: hexadecimal with the prefix `0x`, or decimal (rule R104). -/
def readNumber : List Char → Option Nat
  | '0' :: 'x' :: c :: rest => readDigits 16 0 (c :: rest)
  | c :: rest => readDigits 10 0 (c :: rest)
  | [] => none

/-- A written operand (rule R104). -/
inductive AsmOperand where
  /-- A number. -/
  | num (n : Nat)
  /-- A symbol, standing for a number fixed at assembly time. -/
  | sym (name : List Char)
  deriving DecidableEq, Repr

/-- An operand: a word that starts like a number must be one, any other word is a symbol (rule R104). -/
def readOperand (word : List Char) : Option AsmOperand :=
  match word with
  | [] => none
  | c :: _ =>
    if '0' ≤ c ∧ c ≤ '9' then (readNumber word).map .num else some (.sym word)

/-- A line: `[label] MNEMONIC [operand[, operand]]` (rule R103). -/
structure AsmLine where
  /-- The label, if there is one. -/
  label : Option (List Char)
  /-- The mnemonic. -/
  mnemonic : Mnemonic
  /-- The operands, in the written order. -/
  operands : List AsmOperand
  deriving DecidableEq, Repr

/-- The operands of a line: none, one, or two separated by a comma (rule R103). -/
def readOperands : List AsmToken → Option (List AsmOperand)
  | [] => some []
  | [.word a] => (readOperand a).map fun x => [x]
  | [.word a, .comma, .word b] =>
    (readOperand a).bind fun x => (readOperand b).map fun y => [x, y]
  | _ => none

/-- A line of text as its parts (rule R103): a first word that is no mnemonic is the label. -/
def readLine (line : List Char) : Option AsmLine :=
  match asmTokens line [] with
  | .word a :: rest =>
    match readMnemonic a with
    | some m => (readOperands rest).map (AsmLine.mk none m)
    | none =>
      match rest with
      | .word b :: rest' =>
        (readMnemonic b).bind fun m => (readOperands rest').map (AsmLine.mk (some a) m)
      | _ => none
  | _ => none

/-- The number a symbol's value is used as in a form: a data address keeps its low 7 bits as `f` and a
program address its low 11 bits as the `k` of GOTO and CALL (rule R102), any other is used as it is. The
argument `first` says whether it is the first operand. The rule gives the reduction for an 8-bit data address
and a 13-bit program address; DESIGN CHOICE (assumption 27): a symbol's value wider than that is reduced
in the same way, where the rule's "An assembler must reject" could be read to reject it. -/
def Form.reduceSymbol (form : Form) (first : Bool) (n : Nat) : Nat :=
  match form, first with
  | .fd, true => n % 128
  | .f, true => n % 128
  | .fb, true => n % 128
  | .k11, true => n % 2048
  | _, _ => n

/-- The value of an operand under a symbol table; a symbol in no row has none (rule R104). -/
def AsmOperand.value (symbols : List (List Char × Nat)) (form : Form) (first : Bool) : AsmOperand → Option Nat
  | .num n => some n
  | .sym s => (symbols.lookup s).map (form.reduceSymbol first)

/-- The values of a line's operands. -/
def operandValues (symbols : List (List Char × Nat)) (form : Form) : List AsmOperand → Option (List Nat)
  | [] => some []
  | [a] => (a.value symbols form true).map fun x => [x]
  | [a, b] =>
    (a.value symbols form true).bind fun x => (b.value symbols form false).map fun y => [x, y]
  | _ => none

/-- The destination the number `d` names (rule R8). -/
def destOfNat (n : Nat) : Dest := if n = 0 then .w else .f

/-- The instruction of a mnemonic and operand numbers, `none` where they are not well formed: "An
assembler must reject" them (rule R102). -/
def instrOf (m : Mnemonic) (ops : List Nat) : Option Instr :=
  if wellFormed m ops then
    match m, ops with
    | .movlw, [k] => some (.movlw (BitVec.ofNat 8 k))
    | .movwf, [f] => some (.movwf (BitVec.ofNat 7 f))
    | .movf, [f, d] => some (.movf (BitVec.ofNat 7 f) (destOfNat d))
    | .clrw, [] => some .clrw
    | .clrf, [f] => some (.clrf (BitVec.ofNat 7 f))
    | .swapf, [f, d] => some (.swapf (BitVec.ofNat 7 f) (destOfNat d))
    | .addlw, [k] => some (.addlw (BitVec.ofNat 8 k))
    | .addwf, [f, d] => some (.addwf (BitVec.ofNat 7 f) (destOfNat d))
    | .sublw, [k] => some (.sublw (BitVec.ofNat 8 k))
    | .subwf, [f, d] => some (.subwf (BitVec.ofNat 7 f) (destOfNat d))
    | .andlw, [k] => some (.andlw (BitVec.ofNat 8 k))
    | .andwf, [f, d] => some (.andwf (BitVec.ofNat 7 f) (destOfNat d))
    | .iorlw, [k] => some (.iorlw (BitVec.ofNat 8 k))
    | .iorwf, [f, d] => some (.iorwf (BitVec.ofNat 7 f) (destOfNat d))
    | .xorlw, [k] => some (.xorlw (BitVec.ofNat 8 k))
    | .xorwf, [f, d] => some (.xorwf (BitVec.ofNat 7 f) (destOfNat d))
    | .incf, [f, d] => some (.incf (BitVec.ofNat 7 f) (destOfNat d))
    | .decf, [f, d] => some (.decf (BitVec.ofNat 7 f) (destOfNat d))
    | .rlf, [f, d] => some (.rlf (BitVec.ofNat 7 f) (destOfNat d))
    | .rrf, [f, d] => some (.rrf (BitVec.ofNat 7 f) (destOfNat d))
    | .comf, [f, d] => some (.comf (BitVec.ofNat 7 f) (destOfNat d))
    | .bcf, [f, b] => some (.bcf (BitVec.ofNat 7 f) (BitVec.ofNat 3 b))
    | .bsf, [f, b] => some (.bsf (BitVec.ofNat 7 f) (BitVec.ofNat 3 b))
    | .btfsc, [f, b] => some (.btfsc (BitVec.ofNat 7 f) (BitVec.ofNat 3 b))
    | .btfss, [f, b] => some (.btfss (BitVec.ofNat 7 f) (BitVec.ofNat 3 b))
    | .incfsz, [f, d] => some (.incfsz (BitVec.ofNat 7 f) (destOfNat d))
    | .decfsz, [f, d] => some (.decfsz (BitVec.ofNat 7 f) (destOfNat d))
    | .goto, [k] => some (.goto (BitVec.ofNat 11 k))
    | .call, [k] => some (.call (BitVec.ofNat 11 k))
    | .ret, [] => some .ret
    | .retlw, [k] => some (.retlw (BitVec.ofNat 8 k))
    | .retfie, [] => some .retfie
    | .nop, [] => some .nop
    | .clrwdt, [] => some .clrwdt
    | .sleep, [] => some .sleep
    | _, _ => none
  else
    none

/-- The instruction a parsed line stands for under a symbol table (rules R102 to R105). -/
def AsmLine.instr (symbols : List (List Char × Nat)) (l : AsmLine) : Option Instr :=
  (operandValues symbols l.mnemonic.form l.operands).bind (instrOf l.mnemonic)

/-- The instruction a line of text stands for under a symbol table (rules R102 to R106). -/
def assemble (symbols : List (List Char × Nat)) (line : List Char) : Option Instr :=
  (readLine line).bind (·.instr symbols)

end Sys2Proof
end

