-- ==== Sys2Proof/Safety.lean ====
section
/-! DEFINITION. The terms the statements are written in: the outcome a step completes with, the invariant
of every run, the spec's tables of flags and cycles (rules R50, R271), and the frame of an instruction with
a destination operand (rules R8, R29, R31, R66, R70). -/
namespace Sys2Proof.Machine

/-- The next state of an outcome, if it has one. -/
def nextOf : Host.Outcome State Fault Refusal → Option State
  | .next t => some t
  | .fault _ => none
  | .refused _ => none

/-- The refusal of an outcome, if it is one. -/
def refusalOf : Host.Outcome State Fault Refusal → Option Refusal
  | .next _ => none
  | .fault _ => none
  | .refused r => some r

/-! ### The invariant -/

/-- What holds of every state a run from reset reaches: the parameters meet rules R23 and R67, the sparse
stores are canonical, the stack's live and stale entries fill its `STACK_DEPTH` entries (rule R40), a
disabled watchdog's counters are 0 (rule R243), `TO` and `PD` are 1 and 0 while asleep (rules R222, R246),
and the interrupt holdoff stands only in a running core (rule R245(c)). -/
structure State.Inv (s : State) : Prop where
  /-- Rules R23, R67. -/
  config : s.cfg.wf = true
  /-- Canonical general-purpose registers. -/
  ram : Memory.wf s.ram = true
  /-- Canonical program memory. -/
  prog : ProgMem.wf s.prog = true
  /-- Rule R40. -/
  stack : s.stack.length + s.stale.length = s.cfg.stackDepth
  /-- Rule R243. -/
  watchdog : s.cfg.wdtEnabled = false → s.wdt = 0 ∧ s.wdtPrescaler = 0
  /-- Rules R222, R246. -/
  asleep : s.mode = .sleep → s.flagTo = true ∧ s.flagPd = false
  /-- Rule R245(c). -/
  holdoff : s.intHoldoff = true → s.mode = .run

/-! ### The spec's tables -/

/-- The positions of the `STATUS` flags an instruction's Flag line names (rule R50). -/
def namedFlags (c : Config) : Instr → List BitNum
  | .movlw _ => []
  | .movwf _ => []
  | .movf _ _ => [c.bitZ]
  | .clrw => [c.bitZ]
  | .clrf _ => [c.bitZ]
  | .swapf _ _ => []
  | .addlw _ => [c.bitC, c.bitDc, c.bitZ]
  | .addwf _ _ => [c.bitC, c.bitDc, c.bitZ]
  | .sublw _ => [c.bitC, c.bitDc, c.bitZ]
  | .subwf _ _ => [c.bitC, c.bitDc, c.bitZ]
  | .andlw _ => [c.bitZ]
  | .andwf _ _ => [c.bitZ]
  | .iorlw _ => [c.bitZ]
  | .iorwf _ _ => [c.bitZ]
  | .xorlw _ => [c.bitZ]
  | .xorwf _ _ => [c.bitZ]
  | .incf _ _ => [c.bitZ]
  | .decf _ _ => [c.bitZ]
  | .rlf _ _ => [c.bitC]
  | .rrf _ _ => [c.bitC]
  | .comf _ _ => [c.bitZ]
  | .bcf _ _ => []
  | .bsf _ _ => []
  | .btfsc _ _ => []
  | .btfss _ _ => []
  | .incfsz _ _ => []
  | .decfsz _ _ => []
  | .goto _ => []
  | .call _ => []
  | .ret => []
  | .retlw _ => []
  | .retfie => []
  | .nop => []
  | .clrwdt => [c.bitTo, c.bitPd]
  | .sleep => [c.bitTo, c.bitPd]

/-- The file register an instruction writes: its `f` operand where `d` = 1, and always for MOVWF, CLRF, BCF
and BSF (rule R21). -/
def fileWritten : Instr → Option FileNum
  | .movwf f => some f
  | .clrf f => some f
  | .bcf f _ => some f
  | .bsf f _ => some f
  | .movf f .f => some f
  | .swapf f .f => some f
  | .addwf f .f => some f
  | .subwf f .f => some f
  | .andwf f .f => some f
  | .iorwf f .f => some f
  | .xorwf f .f => some f
  | .incf f .f => some f
  | .decf f .f => some f
  | .rlf f .f => some f
  | .rrf f .f => some f
  | .comf f .f => some f
  | .incfsz f .f => some f
  | .decfsz f .f => some f
  | _ => none

/-- The cell an instruction writes at a state, if it writes a file register. -/
def cellWritten (i : Instr) (s : State) : Option Cell := (fileWritten i).map s.cellOf

/-- The bits of a word that rule R100 has the decoder ignore for the instruction. -/
def ignoredBits : Instr → InstrWord
  | .movlw _ => 0x0300
  | .retlw _ => 0x0300
  | .addlw _ => 0x0100
  | .sublw _ => 0x0100
  | .clrw => 0x007F
  | .nop => 0x0060
  | _ => 0

/-! ### The frame of a destination operand -/

/-- The destination `(f, d)` is the cell `c` of the register file. -/
abbrev State.writesCell (s : State) (f : FileNum) (d : Dest) (c : Cell) : Prop :=
  d = .f ∧ s.cellOf f = c

/-- The record of device-register writes after the byte `v` went to the destination `(f, d)` (rule R69). -/
def State.recordedWrites (s : State) (f : FileNum) (d : Dest) (v : Byte) : List (Nat × Byte) :=
  match d, s.cellOf f with
  | .f, .peripheral n => (n, v) :: s.outputs
  | _, _ => s.outputs

/-- `t` is `s` after the byte `v` went to the destination `(f, d)` (rule R8) under the write rules of the
cell's kind (rules R31, R34, R49, R65, R66, R68, R69), but for the `STATUS` bits at the positions `named`,
and `pc`, `cycles` and the count of free values drawn. Everything not written is unchanged. -/
structure DestFrame (s t : State) (f : FileNum) (d : Dest) (v : Byte) (named : List BitNum) : Prop where
  /-- `W` (rules R8, R20). -/
  w : t.w = if d = .w then v else s.w
  /-- `FSR` (rule R32). -/
  fsr : t.fsr = if s.writesCell f d .fsr then v else s.fsr
  /-- `STATUS`, bit by bit; `TO` and `PD` keep their values (rules R29, R31). -/
  status : ∀ p, p ∉ named →
    getBit t.status p =
      if s.writesCell f d .status ∧ p ≠ s.cfg.bitTo ∧ p ≠ s.cfg.bitPd then getBit v p
      else getBit s.status p
  /-- `PCLATH` keeps five bits (rule R34). -/
  pclath : t.pclath = if s.writesCell f d .pclath then v.extractLsb' 0 5 else s.pclath
  /-- `OPTION_REG` (rule R35). -/
  optionReg : t.optionReg = if s.writesCell f d .optionReg then v else s.optionReg
  /-- The register that holds `GIE` (rule R36). -/
  gieReg : t.gieReg = if s.writesCell f d .gieReg then v else s.gieReg
  /-- Every general-purpose register (rule R49). -/
  ram : ∀ n, Memory.read t.ram n = if s.writesCell f d (.gpr n) then v else Memory.read s.ram n
  /-- A write to a device register is recorded, any other write is not (rule R69). -/
  outputs : t.outputs = s.recordedWrites f d v
  /-- The return stack (rule R40). -/
  stack : t.stack = s.stack ∧ t.stale = s.stale
  /-- The watchdog's counters (rules R44, R45). -/
  watchdog : t.wdt = s.wdt ∧ t.wdtPrescaler = s.wdtPrescaler
  /-- Power state, program, parameters and environment. -/
  rest : t.mode = s.mode ∧ t.prog = s.prog ∧ t.cfg = s.cfg ∧ t.inputs = s.inputs
    ∧ t.intHoldoff = s.intHoldoff

/-- `pc` and `cycles` at the end of an instruction with a destination operand that does not skip: the next
instruction after one cycle (rules R9, R38, R271), or, where the destination is the program counter's low
byte, `PCLATH[4:0] ++ v` after two (rule R48). -/
def EndsNormally (s t : State) (f : FileNum) (d : Dest) (v : Byte) : Prop :=
  if s.writesCell f d .pcl then t.pc = s.pclath ++ v ∧ t.cycles = s.cycles + 2
  else t.pc = s.pc + 1 ∧ t.cycles = s.cycles + 1

/-- `pc` and `cycles` at the end of INCFSZ and DECFSZ with result `r` (rules R190, R193, R194, R271): over the
next instruction if the result is zero. Where the destination is the program counter's low byte as well,
it goes on at `PCLATH[4:0] ++ r` if it does not skip (rule R48), and at an address the spec does not give if
it does (assumption 15). -/
def EndsWithSkip (s t : State) (f : FileNum) (d : Dest) (r : Byte) : Prop :=
  if s.writesCell f d .pcl then t.cycles = s.cycles + 2 ∧ (r ≠ 0 → t.pc = s.pclath ++ r)
  else if r = 0 then t.pc = s.pc + 2 ∧ t.cycles = s.cycles + 2
  else t.pc = s.pc + 1 ∧ t.cycles = s.cycles + 1

/-- `t` is `s` after an instruction that writes at most `W` and, in `STATUS`, the bits at the positions
`named`: everything else is unchanged, and `pc` and `cycles` move on by one (rules R9, R29, R38, R271). -/
def PlainFrame (s t : State) (named : List BitNum) : Prop :=
  t = { s with w := t.w, status := t.status, pc := s.pc + 1, cycles := s.cycles + 1 } ∧
    ∀ p, p ∉ named → getBit t.status p = getBit s.status p

/-- An instruction with a destination operand completes: the byte `v` goes to `(f, d)`, the flags at the
positions `named` may change, `pc` moves on, and `P` holds of the next state. -/
def StoresResult (i : Instr) (s : State) (f : FileNum) (d : Dest) (v : Byte) (named : List BitNum)
    (P : State → Prop) : Prop :=
  ∃ t, exec i s = .next t ∧ DestFrame s t f d v named ∧ EndsNormally s t f d v ∧ P t

/-- No reset and no watchdog time-out comes at the boundary (rules R243, R260). -/
def State.undisturbed (s : State) : Prop :=
  s.input.reset = none ∧ (s.cfg.wdtEnabled = false ∨ s.input.wdtTimeout = false)

/-- The boundary brings the instruction at `pc`: the core runs, nothing disturbs it and no interrupt is taken
(rules R235, R236, R245(c)). -/
def State.executesNext (s : State) : Prop :=
  s.mode = .run ∧ s.undisturbed ∧ (s.input.intReq = false ∨ s.gie = false ∨ s.intHoldoff = true)

/-- The word at the program counter is `w`: the address is implemented and holds it (rule R62). -/
def State.holdsAtPc (s : State) (w : InstrWord) : Prop :=
  s.fetchAddr < s.cfg.progWords ∧ ProgMem.read s.prog s.fetchAddr = some w

/-- The instructions the spec gives one cycle whatever their operands (rule R271). -/
def oneCycle : Instr → Bool
  | .btfsc _ _ => false
  | .btfss _ _ => false
  | .incfsz _ _ => false
  | .decfsz _ _ => false
  | .goto _ => false
  | .call _ => false
  | .ret => false
  | .retlw _ => false
  | .retfie => false
  | _ => true

/-- The instructions the spec gives two cycles (rule R271). -/
def twoCycles : Instr → Bool
  | .goto _ => true
  | .call _ => true
  | .ret => true
  | .retlw _ => true
  | .retfie => true
  | _ => false

end Sys2Proof.Machine
end

