-- ==== Sys2Proof/Certificates/Slice0/Obligations.lean ====
section
/-! DEFINITION. The statements for the provers. Each is about every state, hence about every choice of the open
parameters of rule R3, unless its hypotheses say otherwise; `s.cfg.wf` is the constraint of rules R23 and
R67 on those parameters. Three clauses recur that rest on a choice of the model and on no decision of the
spec: the program counter as a destination (rule R48 admitted, assumption 12, inside `EndsNormally` and
`EndsWithSkip`), a device register read as a free value and written as a recorded event (rule R69,
assumption 13, inside `State.file` and `DestFrame`), and a write to `FSR` through `INDF` where `FSR` points at
itself (assumption 26, inside `State.cellOf`). -/
open Sys2Proof Sys2Proof.Machine

/-! ### Encoding -/

/-- Rules R98, R108: decoding the encoding of any instruction, at every operand value, gives it back. -/
def Obligations.DecodeInvertsEncode : Prop := ∀ i : Instr, decode (encode i) = .ok i

/-- Rule R101: the words no row matches are exactly those listed, and executing one is refused. -/
def Obligations.UnassignedWordsAreRefused : Prop :=
  (∀ w : InstrWord, decode w = .error .unassigned ↔
    (w.toNat < 0x80 ∧ w.toNat ∉ [0x00, 0x20, 0x40, 0x60, 0x08, 0x09, 0x63, 0x64]) ∨
      (0x3B00 ≤ w.toNat ∧ w.toNat ≤ 0x3BFF)) ∧
  (∀ (s : State) (w : InstrWord), s.executesNext → s.holdsAtPc w → decode w = .error .unassigned →
    step s = .refused .illegalInstruction)

/-- Rule R108: no word matches two rows of the opcode map, so the order of testing does not matter. -/
def Obligations.OpcodeRowsAreDisjoint : Prop :=
  opcodeMap.length = 35 ∧
    opcodeMap.Pairwise fun a b => ∀ w, ¬ (a.matches w = true ∧ b.matches w = true)

/-- Rule R100: a word decodes to an instruction exactly if it differs from the instruction's canonical word in
the bits the decoder ignores alone; the canonical word has them 0. -/
def Obligations.DecodeIgnoresExactlyTheIgnoredBits : Prop :=
  ∀ (w : InstrWord) (i : Instr),
    encode i &&& ignoredBits i = 0 ∧ (decode w = .ok i ↔ w &&& ~~~ ignoredBits i = encode i)

/-- 95_test_vectors.md section 2.7: words the spec lists and the instructions they decode to. -/
def Obligations.ListedWordsDecode : Prop :=
  decode 0x0020 = .ok .nop ∧ decode 0x0008 = .ok .ret ∧ decode 0x0063 = .ok .sleep ∧
  decode 0x00FF = .ok (.movwf 0x7F) ∧ decode 0x017F = .ok .clrw ∧ decode 0x0583 = .ok (.andwf 0x03 .f) ∧
  decode 0x0C0C = .ok (.rrf 0x0C .w) ∧ decode 0x1283 = .ok (.bcf 0x03 5) ∧
  decode 0x1D03 = .ok (.btfss 0x03 2) ∧ decode 0x27FF = .ok (.call 0x7FF) ∧
  decode 0x3743 = .ok (.retlw 0x43) ∧ decode 0x3DFF = .ok (.sublw 0xFF)

/-- Rules R92, R102: an instruction's own operand numbers assemble to it, and whatever else is written
with other numbers assembles to nothing: no operand outside its range is encoded. -/
def Obligations.AssemblerAcceptsExactlyOperandsInRange : Prop :=
  (∀ i : Instr, instrOf i.mnemonic i.operands = some i) ∧
  (∀ (m : Mnemonic) (ops : List Nat) (i : Instr),
    instrOf m ops = some i → i.mnemonic = m ∧ i.operands = ops) ∧
  (∀ (m : Mnemonic) (ops : List Nat), wellFormed m ops = false → instrOf m ops = none)

/-! ### The step -/

/-- Rules R9, R62: where the boundary is quiet and the word at `pc` decodes to an instruction, the step is that
instruction's meaning at the state with the boundary's input used up, which differs from `s` in its inputs,
in the watchdog's counters where the environment moved them, and in the holdoff of rule R245(c), now over. -/
def Obligations.StepRunsDecodedInstruction : Prop :=
  ∀ (s : State) (w : InstrWord) (i : Instr),
    s.executesNext → s.holdsAtPc w → decode w = .ok i →
      step s = exec i s.takeInput ∧
      s.takeInput = { s with
        inputs := s.inputs.tail, intHoldoff := false,
        wdt := s.takeInput.wdt, wdtPrescaler := s.takeInput.wdtPrescaler } ∧
      (s.cfg.wdtEnabled = false ∨ s.input.wdtCounters = none →
        s.takeInput.wdt = s.wdt ∧ s.takeInput.wdtPrescaler = s.wdtPrescaler)

/-- Rule R62: a fetch at or above `PROG_WORDS` is refused unless fetches wrap; where they wrap (the rule's
parenthesis, assumption 9) the fetched address is `pc` modulo `PROG_WORDS`; a fetch at an implemented address
that holds no instruction is refused (assumption 8, the model's choice). -/
def Obligations.FetchOutsideProgramStops : Prop :=
  ∀ s : State, s.executesNext →
    (s.cfg.fetchWraps = false → s.cfg.progWords ≤ s.pc.toNat → step s = .refused .fetchOutOfRange) ∧
    (s.cfg.fetchWraps = true → 0 < s.cfg.progWords → s.fetchAddr = s.pc.toNat % s.cfg.progWords ∧
      s.fetchAddr < s.cfg.progWords) ∧
    (s.fetchAddr < s.cfg.progWords → ProgMem.read s.prog s.fetchAddr = none →
      step s = .refused .noInstruction)

/-! ### Arithmetic helpers -/

/-- Rule R155, with the exhaustive properties of 95_test_vectors.md section 2.2. -/
def Obligations.Add8IsUnsignedAdditionWithCarries : Prop :=
  ∀ a b : Byte,
    (add8 a b).r.toNat = (a.toNat + b.toNat) % 256 ∧
    (add8 a b).c = decide (256 ≤ a.toNat + b.toNat) ∧
    (add8 a b).dc = decide (16 ≤ a.toNat % 16 + b.toNat % 16) ∧
    (add8 a b).z = decide ((add8 a b).r = 0) ∧
    add8 a b = add8 b a

/-- Rule R156, with the exhaustive properties of 95_test_vectors.md section 2.2. -/
def Obligations.Sub8IsUnsignedSubtractionWithNoBorrow : Prop :=
  ∀ m s : Byte,
    (sub8 m s).r = m - s ∧
    (sub8 m s).c = decide (s.toNat ≤ m.toNat) ∧
    (sub8 m s).dc = decide (s.toNat % 16 ≤ m.toNat % 16) ∧
    (sub8 m s).z = decide (m = s)

/-! ### Addressing and data memory -/

/-- Rules R33, R64, R65: a direct operand is extended by the bank bit; where that address selects `INDF`, `FSR`
takes its place, one level only; an access whose pointer selects `INDF` itself reads 0x00 and writes
nothing (assumption 16); an access through `INDF` leaves `FSR` alone. The last clause is the pointer that
selects `FSR` itself: there the model writes `FSR`, its own choice (assumption 26). -/
def Obligations.EffectiveAddressIsDirectOrIndirect : Prop :=
  ∀ (s : State) (f : FileNum) (d : Dest) (v : Byte),
    (s.directAddr f).toNat = 128 * s.bankBit.toNat + f.toNat ∧
    (s.cfg.resolve (s.directAddr f) ≠ .indf → s.effAddr f = s.directAddr f) ∧
    (s.cfg.resolve (s.directAddr f) = .indf →
      s.effAddr f = s.fsr ∧
      (s.cfg.resolve s.fsr = .indf → s.file f = 0 ∧ s.dest f .f v = s) ∧
      (s.cfg.resolve s.fsr ≠ .fsr → (s.dest f d v).fsr = s.fsr) ∧
      (s.cfg.resolve s.fsr = .fsr → (s.dest f .f v).fsr = v))

/-- Rules R34, R35, R36, R49, R66, R67, R68: what `MemRead` gives after `MemWrite`, kind of cell by kind of
cell, and that a write to one cell changes the content of no other. THE MODEL'S CHOICE where a cell is no
storage: that a device write leaves every other content alone, and that a device reads the same after
another write, is assumption 13 (rule R69 lets a write change other state); the program counter as a cell is
assumption 12; the clause on unimplemented addresses is assumption 16. -/
def Obligations.MemReadAfterMemWrite : Prop :=
  ∀ (s : State) (a b : DataAddr) (v : Byte),
    (s.cfg.resolve a ≠ s.cfg.resolve b → (s.memWrite a v).memRead b = s.memRead b) ∧
    (s.cfg.resolve a = s.cfg.resolve b →
      ((∃ n, s.cfg.resolve a = .gpr n) → (s.memWrite a v).memRead b = v) ∧
      (s.cfg.resolve a ∈ [Cell.fsr, .optionReg, .gieReg] → (s.memWrite a v).memRead b = v) ∧
      (s.cfg.resolve a = .pclath → ((s.memWrite a v).memRead b).toNat = v.toNat % 32) ∧
      (s.cfg.resolve a = .status → ∀ p, getBit ((s.memWrite a v).memRead b) p =
        if p = s.cfg.bitTo ∨ p = s.cfg.bitPd then getBit s.status p else getBit v p) ∧
      (s.cfg.resolve a = .unimplemented → (s.memWrite a v).memRead b = 0 ∧ s.memWrite a v = s))

/-- 93_implementation_defined.md section 3.2 (assumption 1, PRESUMED): under the profile the machine is reset
with, the general-purpose cells stand at 0x0C to 0x4F and again at 0x8C to 0xCF, address 0xC2 is one of
them (rule R49), and the constraints of rules R23 and R67 hold. -/
def Obligations.ProfileMapsRegisters : Prop :=
  profilePGK.wf = true ∧
  (∀ a : DataAddr, 0x0C ≤ a.toNat → a.toNat ≤ 0x4F →
    profilePGK.resolve a = .gpr (a.toNat - 0x0C) ∧ profilePGK.resolve (a + 0x80) = .gpr (a.toNat - 0x0C)) ∧
  profilePGK.resolve 0xC2 = .gpr 0x36 ∧ profilePGK.resolve 0x81 = .optionReg ∧
  profilePGK.resolve 0x50 = .unimplemented

/-! ### Data transfer -/

/-- Rule R120. -/
def Obligations.MovlwLoadsLiteral : Prop :=
  ∀ (k : Byte) (s : State),
    encode (.movlw k) = 0x3000 ||| k.setWidth 14 ∧
    (∀ x : BitVec 2, decode (0b1100#4 ++ x ++ k) = .ok (.movlw k)) ∧
    ∃ t, exec (.movlw k) s = .next t ∧ t.w = k ∧ PlainFrame s t []

/-- Rule R121: `W` goes to the register, which is not read. -/
def Obligations.MovwfStoresW : Prop :=
  ∀ (f : FileNum) (s : State),
    StoresResult (.movwf f) s f .f s.w [] fun t => t.freeIx = s.freeIx

/-- Rule R122. -/
def Obligations.MovfCopiesRegister : Prop :=
  ∀ (f : FileNum) (d : Dest) (s : State),
    StoresResult (.movf f d) s f d (s.file f) [s.cfg.bitZ] fun t => t.flagZ = decide (s.file f = 0)

/-- Rule R123. -/
def Obligations.ClrwClearsW : Prop :=
  ∀ s : State,
    encode .clrw = 0x0100 ∧ (∀ x : BitVec 7, decode (0b0000010#7 ++ x) = .ok .clrw) ∧
    ∃ t, exec .clrw s = .next t ∧ t.w = 0 ∧ t.flagZ = true ∧ PlainFrame s t [s.cfg.bitZ]

/-- Rules R124, R31: the register becomes 0x00 and is not read; `CLRF STATUS` ends with `Z` = 1, `TO` and `PD`
unchanged and every other bit 0. -/
def Obligations.ClrfClearsRegister : Prop :=
  ∀ (f : FileNum) (s : State),
    StoresResult (.clrf f) s f .f 0 [s.cfg.bitZ] fun t =>
      t.flagZ = true ∧ t.freeIx = s.freeIx ∧
      (s.cellOf f = .status → ∀ p, getBit t.status p =
        if p = s.cfg.bitZ then true
        else if p = s.cfg.bitTo ∨ p = s.cfg.bitPd then getBit s.status p else false)

/-- Rule R125: the nibbles exchange places. -/
def Obligations.SwapfExchangesNibbles : Prop :=
  ∀ (f : FileNum) (d : Dest) (s : State), ∃ r : Byte,
    r.toNat = 16 * ((s.file f).toNat % 16) + (s.file f).toNat / 16 ∧
    StoresResult (.swapf f d) s f d r [] fun _ => True

/-! ### Arithmetic and logic -/

/-- Rule R140. -/
def Obligations.AddlwAddsLiteral : Prop :=
  ∀ (k : Byte) (s : State),
    encode (.addlw k) = 0x3E00 ||| k.setWidth 14 ∧
    (∀ x : BitVec 1, decode (0b11111#5 ++ x ++ k) = .ok (.addlw k)) ∧
    (s.cfg.wf = true →
      ∃ t, exec (.addlw k) s = .next t ∧
        t.w.toNat = (s.w.toNat + k.toNat) % 256 ∧
        t.flagC = decide (256 ≤ s.w.toNat + k.toNat) ∧
        t.flagDc = decide (16 ≤ s.w.toNat % 16 + k.toNat % 16) ∧
        t.flagZ = decide (t.w = 0) ∧
        PlainFrame s t [s.cfg.bitC, s.cfg.bitDc, s.cfg.bitZ])

/-- Rule R141. -/
def Obligations.AddwfAddsRegister : Prop :=
  ∀ (f : FileNum) (d : Dest) (s : State), s.cfg.wf = true →
    StoresResult (.addwf f d) s f d (BitVec.ofNat 8 (s.w.toNat + (s.file f).toNat))
      [s.cfg.bitC, s.cfg.bitDc, s.cfg.bitZ] fun t =>
        t.flagC = decide (256 ≤ s.w.toNat + (s.file f).toNat) ∧
        t.flagDc = decide (16 ≤ s.w.toNat % 16 + (s.file f).toNat % 16) ∧
        t.flagZ = decide ((s.w.toNat + (s.file f).toNat) % 256 = 0)

/-- Rule R142: the literal is the minuend. -/
def Obligations.SublwSubtractsFromLiteral : Prop :=
  ∀ (k : Byte) (s : State),
    encode (.sublw k) = 0x3C00 ||| k.setWidth 14 ∧
    (∀ x : BitVec 1, decode (0b11110#5 ++ x ++ k) = .ok (.sublw k)) ∧
    (s.cfg.wf = true →
      ∃ t, exec (.sublw k) s = .next t ∧
        t.w = k - s.w ∧
        t.flagC = decide (s.w.toNat ≤ k.toNat) ∧
        t.flagDc = decide (s.w.toNat % 16 ≤ k.toNat % 16) ∧
        t.flagZ = decide (k = s.w) ∧
        PlainFrame s t [s.cfg.bitC, s.cfg.bitDc, s.cfg.bitZ])

/-- Rule R143: the register is the minuend. -/
def Obligations.SubwfSubtractsFromRegister : Prop :=
  ∀ (f : FileNum) (d : Dest) (s : State), s.cfg.wf = true →
    StoresResult (.subwf f d) s f d (s.file f - s.w)
      [s.cfg.bitC, s.cfg.bitDc, s.cfg.bitZ] fun t =>
        t.flagC = decide (s.w.toNat ≤ (s.file f).toNat) ∧
        t.flagDc = decide (s.w.toNat % 16 ≤ (s.file f).toNat % 16) ∧
        t.flagZ = decide (s.file f = s.w)

/-- Rules R144, R146, R148. -/
def Obligations.LiteralLogicWritesWAndZ : Prop :=
  ∀ (k : Byte) (s : State),
    (encode (.andlw k) = 0x3900 ||| k.setWidth 14 ∧
      ∃ t, exec (.andlw k) s = .next t ∧ t.w = s.w &&& k ∧ t.flagZ = decide (s.w &&& k = 0) ∧
        PlainFrame s t [s.cfg.bitZ]) ∧
    (encode (.iorlw k) = 0x3800 ||| k.setWidth 14 ∧
      ∃ t, exec (.iorlw k) s = .next t ∧ t.w = s.w ||| k ∧ t.flagZ = decide (s.w = 0 ∧ k = 0) ∧
        PlainFrame s t [s.cfg.bitZ]) ∧
    (encode (.xorlw k) = 0x3A00 ||| k.setWidth 14 ∧
      ∃ t, exec (.xorlw k) s = .next t ∧ t.w = s.w ^^^ k ∧ t.flagZ = decide (s.w = k) ∧
        PlainFrame s t [s.cfg.bitZ])

/-- Rules R145, R147, R149, R154. -/
def Obligations.RegisterLogicWritesResultAndZ : Prop :=
  ∀ (f : FileNum) (d : Dest) (s : State),
    StoresResult (.andwf f d) s f d (s.w &&& s.file f) [s.cfg.bitZ]
      (fun t => t.flagZ = decide (s.w &&& s.file f = 0)) ∧
    StoresResult (.iorwf f d) s f d (s.w ||| s.file f) [s.cfg.bitZ]
      (fun t => t.flagZ = decide (s.w = 0 ∧ s.file f = 0)) ∧
    StoresResult (.xorwf f d) s f d (s.w ^^^ s.file f) [s.cfg.bitZ]
      (fun t => t.flagZ = decide (s.w = s.file f)) ∧
    StoresResult (.comf f d) s f d (BitVec.ofNat 8 (255 - (s.file f).toNat)) [s.cfg.bitZ]
      (fun t => t.flagZ = decide ((s.file f).toNat = 255))

/-- Rules R150, R151: `Z` only, on the wrap too. -/
def Obligations.IncfDecfWriteZOnly : Prop :=
  ∀ (f : FileNum) (d : Dest) (s : State),
    StoresResult (.incf f d) s f d (BitVec.ofNat 8 ((s.file f).toNat + 1)) [s.cfg.bitZ]
      (fun t => t.flagZ = decide ((s.file f).toNat = 255)) ∧
    StoresResult (.decf f d) s f d (BitVec.ofNat 8 ((s.file f).toNat + 255)) [s.cfg.bitZ]
      (fun t => t.flagZ = decide ((s.file f).toNat = 1))

/-- Rules R152, R153: the nine-bit rotates through carry. -/
def Obligations.RotatesGoThroughCarry : Prop :=
  ∀ (f : FileNum) (d : Dest) (s : State),
    StoresResult (.rlf f d) s f d (BitVec.ofNat 8 (2 * (s.file f).toNat + s.flagC.toNat)) [s.cfg.bitC]
      (fun t => t.flagC = decide (128 ≤ (s.file f).toNat)) ∧
    StoresResult (.rrf f d) s f d (BitVec.ofNat 8 (128 * s.flagC.toNat + (s.file f).toNat / 2)) [s.cfg.bitC]
      (fun t => t.flagC = decide ((s.file f).toNat % 2 = 1))

/-- Rule R153, "RRF after RLF (both `d` = 1) restores register and carry", in a general-purpose register and
where both name the same one: the bank bit is a constant, or a `STATUS` bit other than the carry, or whatever
it is a function of (assumption 22), the operand still selects the register after the RLF. -/
def Obligations.RrfAfterRlfRestores : Prop :=
  ∀ (f : FileNum) (s : State) (n : Nat),
    s.cellOf f = .gpr n →
    ((∃ b, s.cfg.bank = .fixed b) ∨ (∃ p, p ≠ s.cfg.bitC ∧ s.cfg.bank = .statusBit p) ∨
      ∀ t, exec (.rlf f .f) s = .next t → t.cellOf f = .gpr n) →
      ∃ t u, exec (.rlf f .f) s = .next t ∧ exec (.rrf f .f) t = .next u ∧
        (∀ k, Memory.read u.ram k = Memory.read s.ram k) ∧ u.status = s.status ∧ u.w = s.w

/-! ### Bits and skips -/

/-- Rules R180, R181: one bit of the cell changes, no flag is named. -/
def Obligations.BcfBsfChangeOneBit : Prop :=
  ∀ (f : FileNum) (b : BitNum) (s : State),
    (∃ r : Byte, (∀ p, getBit r p = if p = b then false else getBit (s.file f) p) ∧
      StoresResult (.bcf f b) s f .f r [] fun _ => True) ∧
    (∃ r : Byte, (∀ p, getBit r p = if p = b then true else getBit (s.file f) p) ∧
      StoresResult (.bsf f b) s f .f r [] fun _ => True)

/-- Rules R190, R191, R192: only `pc` and `cycles` change (and, where the register is a device's, the count of
free values drawn). THE MODEL'S CHOICE: that the tested register may be the program counter's low byte
(assumption 12), and that reading a device register is free and changes nothing else (assumption 13). -/
def Obligations.BitTestsSkip : Prop :=
  ∀ (f : FileNum) (b : BitNum) (s : State),
    encode (.btfsc f b) = 0x1800 ||| (b.setWidth 14 <<< 7) ||| f.setWidth 14 ∧
    encode (.btfss f b) = 0x1C00 ||| (b.setWidth 14 <<< 7) ||| f.setWidth 14 ∧
    ∃ n, ((∀ k, s.cellOf f ≠ .peripheral k) → n = s.freeIx) ∧
      if (s.file f).toNat / 2 ^ b.toNat % 2 = 0 then
        exec (.btfsc f b) s = .next { s with pc := s.pc + 2, cycles := s.cycles + 2, freeIx := n } ∧
        exec (.btfss f b) s = .next { s with pc := s.pc + 1, cycles := s.cycles + 1, freeIx := n }
      else
        exec (.btfsc f b) s = .next { s with pc := s.pc + 1, cycles := s.cycles + 1, freeIx := n } ∧
        exec (.btfss f b) s = .next { s with pc := s.pc + 2, cycles := s.cycles + 2, freeIx := n }

/-- Rules R193, R194: no flag is written; the skip depends on the result whichever destination it goes to.
Where the destination is the program counter and the result zero, the address is left open (assumption 15). -/
def Obligations.IncfszDecfszSkipOnZero : Prop :=
  ∀ (f : FileNum) (d : Dest) (s : State),
    (∃ t, exec (.incfsz f d) s = .next t ∧
      DestFrame s t f d (BitVec.ofNat 8 ((s.file f).toNat + 1)) [] ∧
      EndsWithSkip s t f d (BitVec.ofNat 8 ((s.file f).toNat + 1))) ∧
    (∃ t, exec (.decfsz f d) s = .next t ∧
      DestFrame s t f d (BitVec.ofNat 8 ((s.file f).toNat + 255)) [] ∧
      EndsWithSkip s t f d (BitVec.ofNat 8 ((s.file f).toNat + 255)))

/-! ### Jump, call and returns -/

/-- Rules R75, R195. -/
def Obligations.GotoJumpsWithinPage : Prop :=
  ∀ (k : Target) (s : State),
    encode (.goto k) = 0x2800 ||| k.setWidth 14 ∧
    ∃ a : Pc, a.toNat = 2048 * (s.pclath.toNat / 8) + k.toNat ∧
      exec (.goto k) s = .next { s with pc := a, cycles := s.cycles + 2 }

/-- Rules R41, R43, R196: the full return address is pushed; on a full stack CALL is refused, or overwrites the
oldest entry where `STACK_WRAP` is true. Which entry of the circular buffer a push gives up (`stale`) is the
model's reading of it (assumption 3, DEDUCED). -/
def Obligations.CallPushesReturnAddress : Prop :=
  ∀ (k : Target) (s : State),
    encode (.call k) = 0x2000 ||| k.setWidth 14 ∧
    ∃ a : Pc, a.toNat = 2048 * (s.pclath.toNat / 8) + k.toNat ∧
      (s.stack.length < s.cfg.stackDepth →
        exec (.call k) s = .next { s with
          stack := (s.pc + 1) :: s.stack, stale := s.stale.dropLast, pc := a, cycles := s.cycles + 2 }) ∧
      (s.cfg.stackDepth ≤ s.stack.length → s.cfg.stackWrap = false →
        exec (.call k) s = .refused .stackOverflow) ∧
      (s.stack.length = s.cfg.stackDepth → 0 < s.cfg.stackDepth → s.cfg.stackWrap = true →
        exec (.call k) s = .next { s with
          stack := (s.pc + 1) :: s.stack.dropLast, pc := a, cycles := s.cycles + 2 })

/-- Rules R196, R197, R75: a RETURN after a CALL is back at the instruction after the CALL, in the caller's page
whatever `PCLATH` holds, with the stack as before. -/
def Obligations.ReturnAfterCallComesBack : Prop :=
  ∀ (k : Target) (s : State) (p : BitVec 5), s.stack.length < s.cfg.stackDepth →
    ∃ t u, exec (.call k) s = .next t ∧ exec .ret { t with pclath := p } = .next u ∧
      u.pc = s.pc + 1 ∧ u.stack = s.stack ∧ u.pclath = p

/-- Rules R42, R43, R197, R198, R199: the returns, with an entry on the stack and with none. Where a popped entry
goes in the circular buffer (`stale`) is the model's reading of it (assumption 3, DEDUCED). -/
def Obligations.ReturnsPopTheStack : Prop :=
  ∀ (k : Byte) (s : State),
    encode .ret = 0x0008 ∧ encode (.retlw k) = 0x3400 ||| k.setWidth 14 ∧
    (∀ x : BitVec 2, decode (0b1101#4 ++ x ++ k) = .ok (.retlw k)) ∧ encode .retfie = 0x0009 ∧
    (∀ (a : Pc) (rest : List Pc), s.stack = a :: rest →
      let t := { s with stack := rest, stale := s.stale ++ [a], pc := a, cycles := s.cycles + 2 }
      exec .ret s = .next t ∧
      exec (.retlw k) s = .next { t with w := k } ∧
      ∃ g : Byte, (∀ p, getBit g p = if p = s.cfg.bitGie then true else getBit s.gieReg p) ∧
        exec .retfie s = .next { t with gieReg := g }) ∧
    (s.stack = [] → s.cfg.stackWrap = false →
      exec .ret s = .refused .stackUnderflow ∧ exec (.retlw k) s = .refused .stackUnderflow ∧
      exec .retfie s = .refused .stackUnderflow)

/-- Rule R43, `STACK_WRAP` true (general knowledge of the spec; the circular reading of its two is the
model's choice, assumption 3): a pop of the empty stack gives the entry the circular pointer reaches, and
the pointer moves on by one. -/
def Obligations.EmptyStackPopsCircularly : Prop :=
  ∀ (k : Byte) (s : State) (a : Pc) (rest : List Pc),
    s.stack = [] → s.cfg.stackWrap = true → s.stale = a :: rest →
      let t := { s with stale := rest ++ [a], pc := a, cycles := s.cycles + 2 }
      exec .ret s = .next t ∧
      exec (.retlw k) s = .next { t with w := k } ∧
      ∃ g : Byte, (∀ p, getBit g p = if p = s.cfg.bitGie then true else getBit s.gieReg p) ∧
        exec .retfie s = .next { t with gieReg := g }

/-! ### System instructions -/

/-- Rule R220. -/
def Obligations.NopOnlyAdvances : Prop :=
  ∀ s : State,
    encode .nop = 0x0000 ∧ (∀ x : BitVec 2, decode (0b0000000#7 ++ x ++ 0b00000#5) = .ok .nop) ∧
    exec .nop s = .next { s with pc := s.pc + 1, cycles := s.cycles + 1 }

/-- Rule R221. -/
def Obligations.ClrwdtClearsWatchdog : Prop :=
  encode .clrwdt = 0x0064 ∧
  ∀ s : State,
    ∃ t, exec .clrwdt s = .next t ∧
      t = { s with
        wdt := 0, wdtPrescaler := 0, status := t.status, pc := s.pc + 1, cycles := s.cycles + 1 } ∧
      ∀ p, getBit t.status p = if p = s.cfg.bitTo ∨ p = s.cfg.bitPd then true else getBit s.status p

/-- Rule R222. -/
def Obligations.SleepStopsTheCore : Prop :=
  encode .sleep = 0x0063 ∧
  ∀ s : State, s.cfg.wf = true →
    ∃ t, exec .sleep s = .next t ∧
      t = { s with
        wdt := 0, wdtPrescaler := 0, status := t.status, pc := s.pc + 1, cycles := s.cycles + 1
        mode := .sleep } ∧
      ∀ p, getBit t.status p =
        if p = s.cfg.bitTo then true else if p = s.cfg.bitPd then false else getBit s.status p

/-! ### Events at a boundary -/

/-- Rule R236: interrupt entry in place of the instruction at `pc`; on a full stack it overwrites the oldest entry
where `STACK_WRAP` is true and is refused where it is false (rule R43); "Nothing else is saved or changed";
not taken while `GIE` = 0. Which entry of the circular buffer a push gives up (`stale`) is the model's reading
of it (assumption 3, DEDUCED). THE MODEL'S CHOICE: `cycles` (rule R47) is among what is unchanged, though the
entry takes time, since rule R271 gives it no latency to count (assumption 19). -/
def Obligations.InterruptEntryPushesPc : Prop :=
  ∀ s : State, s.mode = .run → s.undisturbed → s.intHoldoff = false → s.input.intReq = true →
    (∃ g : Byte, (∀ p, getBit g p = if p = s.cfg.bitGie then false else getBit s.gieReg p) ∧
      (s.gie = true → s.stack.length < s.cfg.stackDepth →
        step s = .next { s.takeInput with
          gieReg := g, stack := s.pc :: s.stack, stale := s.stale.dropLast, pc := s.cfg.intVector }) ∧
      (s.gie = true → s.stack.length = s.cfg.stackDepth → 0 < s.cfg.stackDepth → s.cfg.stackWrap = true →
        step s = .next { s.takeInput with
          gieReg := g, stack := s.pc :: s.stack.dropLast, pc := s.cfg.intVector })) ∧
    (s.gie = true → s.cfg.stackDepth ≤ s.stack.length → s.cfg.stackWrap = false →
      step s = .refused .stackOverflow) ∧
    (s.gie = false → step s = s.takeInput.runInstruction)

/-- Rule R237 (vector E5): RETFIE with the request still there is followed by another entry before the
instruction at the return address executes, and everything RETFIE does not restore is as it was. -/
def Obligations.RetfieReentersWhileRequested : Prop :=
  ∀ (s : State) (a : Pc) (rest : List Pc),
    s.executesNext → s.holdsAtPc 0x0009 → s.stack = a :: rest → rest.length < s.cfg.stackDepth →
    s.takeInput.undisturbed → s.takeInput.input.intReq = true →
      ∃ t u, step s = .next t ∧ t.pc = a ∧ t.gie = true ∧ step t = .next u ∧
        u.pc = s.cfg.intVector ∧ u.stack = a :: rest ∧ u.gie = false ∧
        u.w = s.w ∧ u.status = s.status ∧ u.fsr = s.fsr ∧ u.pclath = s.pclath ∧ u.ram = s.ram

/-- Rules R244, R260, R261: a time-out while running is a reset with `TO` = 0 and `PD` = 1 that leaves `W`, `FSR`,
the general-purpose registers and `C`, `DC`, `Z` alone. -/
def Obligations.WatchdogTimeoutResetsRunningCore : Prop :=
  ∀ s : State, s.cfg.wf = true → s.cfg.wdtEnabled = true → s.mode = .run →
    s.input.reset = none → s.input.wdtTimeout = true →
      ∃ t, step s = .next t ∧
        t.pc = s.cfg.resetVector ∧ t.pclath = 0 ∧ t.gieReg = 0 ∧ t.stack = [] ∧ t.wdt = 0 ∧
        t.wdtPrescaler = 0 ∧ t.mode = .run ∧ t.cycles = 0 ∧ t.flagTo = false ∧ t.flagPd = true ∧
        t.flagC = s.flagC ∧ t.flagDc = s.flagDc ∧ t.flagZ = s.flagZ ∧
        (∀ p, p ∉ [s.cfg.bitC, s.cfg.bitDc, s.cfg.bitZ, s.cfg.bitPd, s.cfg.bitTo] →
          getBit t.status p = false) ∧
        t.w = s.w ∧ t.fsr = s.fsr ∧ t.ram = s.ram ∧ t.prog = s.prog ∧ t.cfg = s.cfg

/-- Rules R244, R245(b): a time-out while asleep wakes the core with `TO` = 0 and `PD` = 0 and resets nothing. THE
MODEL'S CHOICE: `cycles` (rule R47) is unchanged, since rule R271 gives a wake-up no latency to count
(assumption 19). -/
def Obligations.WatchdogTimeoutWakesSleepingCore : Prop :=
  ∀ s : State, s.cfg.wf = true → s.cfg.wdtEnabled = true → s.mode = .sleep →
    s.input.reset = none → s.input.wdtTimeout = true →
      ∃ t, step s = .next t ∧
        t = { s with
          mode := .run, status := t.status, wdt := 0, wdtPrescaler := 0,
          inputs := s.inputs.tail, intHoldoff := false } ∧
        ∀ p, getBit t.status p =
          if p = s.cfg.bitTo ∨ p = s.cfg.bitPd then false else getBit s.status p

/-- Rule R245(c) (vectors E9, E10): an interrupt request wakes the core whatever `GIE` is; the instruction at
`pc` executes even if the request stays; then, if `GIE` = 1, entry comes before the next one. -/
def Obligations.InterruptWakeRunsOneInstruction : Prop :=
  ∀ (s : State) (w : InstrWord) (i : Instr),
    s.mode = .sleep → s.undisturbed → s.input.intReq = true →
    s.takeInput.undisturbed → s.holdsAtPc w → decode w = .ok i →
      ∃ t, step s = .next t ∧ t.mode = .run ∧ t.pc = s.pc ∧ t.status = s.status ∧ t.gieReg = s.gieReg ∧
        t.stack = s.stack ∧ step t = exec i t.takeInput ∧
        ∀ u, step t = .next u → u.gie = true → u.mode = .run → u.undisturbed → u.input.intReq = true →
          step u = u.takeInput.interruptEntry

/-- Rule R235: a reset comes before a time-out, and a time-out before an interrupt. -/
def Obligations.ResetBeforeTimeoutBeforeInterrupt : Prop :=
  ∀ s : State,
    (∀ k, s.input.reset = some k → step s = .next (s.takeInput.resetBy s.input.unspecified k)) ∧
    (s.input.reset = none → s.cfg.wdtEnabled = true → s.input.wdtTimeout = true →
      step s = .next (match s.mode with
        | .run => s.takeInput.watchdogReset s.input.unspecified
        | .sleep => s.takeInput.watchdogWake))

/-- Rules R51, R260: power-on reset puts every element at the value of the table. That what the table leaves
unspecified is what the environment supplies, the general-purpose registers and the contents of the emptied
stack's entries among it, is the model's choice (assumption 18; at `State.reset` itself assumptions 2, 5 and 6
name the values). -/
def Obligations.PowerOnResetMeetsTable : Prop :=
  ∀ s : State, s.cfg.wf = true → s.input.reset = some .powerOn →
    ∃ t, step s = .next t ∧
      t.pc = s.cfg.resetVector ∧ t.pclath = 0 ∧ t.gieReg = 0 ∧ t.stack = [] ∧
      t.stale.length = s.cfg.stackDepth ∧ t.wdt = 0 ∧ t.wdtPrescaler = 0 ∧ t.mode = .run ∧ t.cycles = 0 ∧
      t.flagTo = true ∧ t.flagPd = true ∧
      (∀ p, p ∉ [s.cfg.bitC, s.cfg.bitDc, s.cfg.bitZ, s.cfg.bitPd, s.cfg.bitTo] →
        getBit t.status p = false) ∧
      t.w = s.input.unspecified.w ∧ t.fsr = s.input.unspecified.fsr ∧
      t.flagC = s.input.unspecified.c ∧ t.flagDc = s.input.unspecified.dc ∧
      t.flagZ = s.input.unspecified.z ∧ t.optionReg = s.input.unspecified.optionReg ∧
      t.ram = Memory.ofCells s.input.unspecified.ram ∧
      t.stale = fitEntries s.cfg.stackDepth s.input.unspecified.entries ∧
      t.prog = s.prog ∧ t.cfg = s.cfg

/-- Rules R51, R260, R261 (general knowledge of the spec): the reset pin leaves `TO` and `PD` unchanged when awake
and makes them 1 and 0 when asleep, and does what every reset other than power-on does besides; `OPTION_REG`
and the stack entries' contents, unspecified then, are what the environment supplies (assumption 18). -/
def Obligations.ExternalResetKeepsOrMarksSleep : Prop :=
  ∀ s : State, s.cfg.wf = true → s.input.reset = some .external →
    ∃ t, step s = .next t ∧ t.pc = s.cfg.resetVector ∧ t.mode = .run ∧ t.stack = [] ∧ t.gieReg = 0 ∧
      t.pclath = 0 ∧ t.wdt = 0 ∧ t.wdtPrescaler = 0 ∧ t.cycles = 0 ∧
      (∀ p, p ∉ [s.cfg.bitC, s.cfg.bitDc, s.cfg.bitZ, s.cfg.bitPd, s.cfg.bitTo] →
        getBit t.status p = false) ∧
      t.flagTo = (match s.mode with | .run => s.flagTo | .sleep => true) ∧
      t.flagPd = (match s.mode with | .run => s.flagPd | .sleep => false) ∧
      t.w = s.w ∧ t.fsr = s.fsr ∧ t.ram = s.ram ∧ t.flagC = s.flagC ∧ t.flagDc = s.flagDc ∧
      t.flagZ = s.flagZ ∧ t.optionReg = s.input.unspecified.optionReg ∧
      t.stale = fitEntries s.cfg.stackDepth s.input.unspecified.entries ∧
      t.prog = s.prog ∧ t.cfg = s.cfg

/-- Rule R246: asleep with nothing to wake it, the core keeps every element, but for the watchdog's counters
where the watchdog runs; `cycles` does not advance. -/
def Obligations.SleepingCoreKeepsState : Prop :=
  ∀ s : State, s.mode = .sleep → s.undisturbed → s.input.intReq = false →
    ∃ t, step s = .next t ∧
      t = { s with
        inputs := s.inputs.tail, intHoldoff := false, wdt := t.wdt, wdtPrescaler := t.wdtPrescaler } ∧
      (s.cfg.wdtEnabled = false → t.wdt = s.wdt ∧ t.wdtPrescaler = s.wdtPrescaler)

/-- Rule R243 (vector E11): with the watchdog disabled its counters stay 0 and no step clears `TO`. -/
def Obligations.DisabledWatchdogNeverTimesOut : Prop :=
  ∀ s t : State, s.cfg.wf = true → s.cfg.wdtEnabled = false → s.wdt = 0 → s.wdtPrescaler = 0 →
    s.flagTo = true → step s = .next t → t.wdt = 0 ∧ t.wdtPrescaler = 0 ∧ t.flagTo = true

/-! ### The whole machine -/

/-- Rules R29, R50: an instruction whose destination is not `STATUS` changes no `STATUS` bit but the flags its
Flag line names. -/
def Obligations.OnlyNamedFlagsChange : Prop :=
  ∀ (i : Instr) (s t : State) (p : BitNum),
    exec i s = .next t → cellWritten i s ≠ some .status → p ∉ namedFlags s.cfg i →
      getBit t.status p = getBit s.status p

/-- Rules R27, R28, R31: no instruction but CLRWDT and SLEEP changes `TO` or `PD`, not even one that writes
`STATUS`. -/
def Obligations.TimeoutAndPowerDownBitsAreProtected : Prop :=
  ∀ (i : Instr) (s t : State),
    s.cfg.wf = true → exec i s = .next t → i ≠ .clrwdt → i ≠ .sleep →
      t.flagTo = s.flagTo ∧ t.flagPd = s.flagPd

/-- Rules R21, R34, R40, R44, R46, R79 and each instruction's own rule: whatever instruction completes, a register
changed only if the instruction writes it as its file register or is one of the few that write it
otherwise, and no instruction changes program memory, the parameters or the environment. -/
def Obligations.RegistersChangeOnlyByTheirWriters : Prop :=
  ∀ (i : Instr) (s t : State), exec i s = .next t →
    (t.fsr ≠ s.fsr → cellWritten i s = some .fsr) ∧
    (t.pclath ≠ s.pclath → cellWritten i s = some .pclath) ∧
    (t.optionReg ≠ s.optionReg → cellWritten i s = some .optionReg) ∧
    (t.gieReg ≠ s.gieReg → cellWritten i s = some .gieReg ∨ i = .retfie) ∧
    (∀ n, Memory.read t.ram n ≠ Memory.read s.ram n → cellWritten i s = some (.gpr n)) ∧
    (t.outputs ≠ s.outputs → ∃ n, cellWritten i s = some (.peripheral n)) ∧
    (t.stack ≠ s.stack ∨ t.stale ≠ s.stale →
      i = .ret ∨ i = .retfie ∨ (∃ k, i = .retlw k) ∨ ∃ k, i = .call k) ∧
    (t.wdt ≠ s.wdt ∨ t.wdtPrescaler ≠ s.wdtPrescaler → i = .clrwdt ∨ i = .sleep) ∧
    (t.mode ≠ s.mode → i = .sleep) ∧
    t.prog = s.prog ∧ t.cfg = s.cfg ∧ t.inputs = s.inputs ∧ t.intHoldoff = s.intHoldoff

/-- Rules R10, R230: every instruction at every state has a next state, but for CALL and the three returns,
whose only other outcome is the stack refusal of rule R43. Rule R10 lists two more refusals of an
instruction, `UnmodelledCell` and `UnwrittenRead`, and rule R48 refuses the program counter as a cell by
default: that no instruction is refused for these is THE MODEL'S CHOICE among what the rules offer
(assumptions 5 and 6 for what nothing has written, 12 for the program counter, 13 for device registers, 16 for
unimplemented cells). -/
def Obligations.OnlyStackInstructionsAreEverRefused : Prop :=
  ∀ (i : Instr) (s : State),
    (∃ t, exec i s = .next t) ∨
    ((∃ k, i = .call k) ∧ s.cfg.stackWrap = false ∧ s.cfg.stackDepth ≤ s.stack.length ∧
      exec i s = .refused .stackOverflow) ∨
    ((i = .ret ∨ i = .retfie ∨ ∃ k, i = .retlw k) ∧ s.stack = [] ∧
      (s.cfg.stackWrap = false ∨ s.stale = []) ∧ exec i s = .refused .stackUnderflow)

/-- Rules R47, R48, R271: the cycle counts: two for the control transfers; one for the instructions the spec gives
one, or two where their destination is the program counter; one or two for the conditional skips. -/
def Obligations.CyclesFollowTheTable : Prop :=
  ∀ (i : Instr) (s t : State), exec i s = .next t →
    (twoCycles i = true → t.cycles = s.cycles + 2) ∧
    (oneCycle i = true → t.cycles = s.cycles + if cellWritten i s = some .pcl then 2 else 1) ∧
    (t.cycles = s.cycles + 1 → t.pc = s.pc + 1) ∧
    (t.cycles = s.cycles + 1 ∨ t.cycles = s.cycles + 2)

/-- Rule R245: `Sleep` is entered only by SLEEP. -/
def Obligations.OnlySleepEntersSleep : Prop :=
  ∀ s t : State, step s = .next t → s.mode = .run → t.mode = .sleep →
    s.executesNext ∧ s.holdsAtPc (encode .sleep)

/-- Rules R61, R79, R3: no step changes the program or the parameters. -/
def Obligations.StepKeepsProgramAndParameters : Prop :=
  ∀ s t : State, step s = .next t → t.prog = s.prog ∧ t.cfg = s.cfg ∧ t.inputs = s.inputs.tail

/-- Rules R23, R40, R49, R222, R243, R245, R246, R67: the invariant `State.Inv` is kept by every step from every state
that has it. -/
def Obligations.StepKeepsInvariant : Prop :=
  ∀ s t : State, s.Inv → step s = .next t → t.Inv

/-- The invariant holds right after reset. -/
def Obligations.ResetHasInvariant : Prop := State.reset.Inv

/-- Rules R51, R260: the machine right after reset is at the values the spec's table fixes (the profile's vector,
assumption 1), and is what a power-on reset makes of it for one choice of the unspecified values, the one
assumptions 2, 5 and 6 name (DESIGN CHOICE, PRESUMED). -/
def Obligations.ResetStateMeetsTable : Prop :=
  State.reset.pc = State.reset.cfg.resetVector ∧ State.reset.pclath = 0 ∧ State.reset.gie = false ∧
  State.reset.gieReg = 0 ∧ State.reset.flagTo = true ∧ State.reset.flagPd = true ∧
  State.reset.stack = [] ∧ State.reset.wdt = 0 ∧ State.reset.wdtPrescaler = 0 ∧
  State.reset.mode = .run ∧ State.reset.cycles = 0 ∧
  State.reset.powerOnReset { optionReg := 0xFF } = State.reset
end

