-- ==== Sys2Proof/Laws/Bits.lean ====
section
/-! SUPPORT. Bits of a byte: what setting, clearing and the protected write of `STATUS` make of each bit. -/
namespace Sys2Proof.Machine

/-- Two bytes with the same eight bits are equal. -/
theorem byte_ext {a b : Byte} (h : ∀ p : BitNum, getBit a p = getBit b p) : a = b := by
  apply BitVec.eq_of_getLsbD_eq
  intro i hi
  have := h (BitVec.ofNat 3 i)
  simpa [getBit, Nat.mod_eq_of_lt hi] using this

@[simp] theorem getBit_bitMask (b p : BitNum) : getBit (bitMask b) p = decide (p = b) := by
  revert b p; decide

@[simp] theorem getBit_and (a b : Byte) (p : BitNum) : getBit (a &&& b) p = (getBit a p && getBit b p) := by
  simp [getBit]

@[simp] theorem getBit_or (a b : Byte) (p : BitNum) : getBit (a ||| b) p = (getBit a p || getBit b p) := by
  simp [getBit]

@[simp] theorem getBit_not (a : Byte) (p : BitNum) : getBit (~~~ a) p = !getBit a p := by
  have : p.toNat < 8 := p.isLt
  simp [getBit, this]

@[simp] theorem getBit_zero (p : BitNum) : getBit 0#8 p = false := by
  simp [getBit]

@[simp] theorem getBit_clearBit (v : Byte) (b p : BitNum) :
    getBit (clearBit v b) p = if p = b then false else getBit v p := by
  by_cases h : p = b <;> simp [clearBit, h]

@[simp] theorem getBit_raiseBit (v : Byte) (b p : BitNum) :
    getBit (raiseBit v b) p = if p = b then true else getBit v p := by
  by_cases h : p = b <;> simp [raiseBit, h]

@[simp] theorem getBit_putBit (v : Byte) (b : BitNum) (x : Bool) (p : BitNum) :
    getBit (putBit v b x) p = if p = b then x else getBit v p := by
  cases x <;> simp [putBit]

/-- The protected write of `STATUS` (rule R31): `TO` and `PD` keep their values, every other bit is the
written one. -/
@[simp] theorem getBit_statusAfterWrite (c : Config) (old v : Byte) (p : BitNum) :
    getBit (statusAfterWrite c old v) p =
      if p = c.bitTo ∨ p = c.bitPd then getBit old p else getBit v p := by
  by_cases h1 : p = c.bitTo <;> by_cases h2 : p = c.bitPd <;>
    simp [statusAfterWrite, Config.heldStatusBits, h1, h2]

end Sys2Proof.Machine
end

