-- ==== Sys2Proof/Laws/Memory.lean ====
section
/-! SUPPORT. The sparse stores: a read after a write gives the value written, a write leaves every other
address alone, and every operation keeps the canonical form. -/
namespace Sys2Proof.Machine

variable {α : Type}

@[simp] theorem lookupCell_insertCell (m : List (Nat × α)) (n k : Nat) (v : α) :
    lookupCell (insertCell m n v) k = if n = k then some v else lookupCell m k := by
  induction m with
  | nil => simp [insertCell, lookupCell]
  | cons x rest ih =>
    obtain ⟨a, y⟩ := x
    simp only [insertCell]
    split
    · simp [lookupCell]
    · split
      · next h => subst h; by_cases hk : n = k <;> simp [lookupCell, hk]
      · next h =>
        simp only [lookupCell, ih]
        by_cases ha : a = k
        · have : n ≠ k := fun e => h (e.trans ha.symm)
          simp [ha, this]
        · simp [ha]

@[simp] theorem lookupCell_eraseCell (m : List (Nat × α)) (n k : Nat) :
    lookupCell (eraseCell m n) k = if n = k then none else lookupCell m k := by
  induction m with
  | nil => simp [eraseCell, lookupCell]
  | cons x rest ih =>
    obtain ⟨a, y⟩ := x
    simp only [eraseCell]
    by_cases ha : a = n
    · subst ha
      simp only [if_true, ih, lookupCell]
      split <;> simp_all
    · simp only [ha, if_false, lookupCell, ih]
      by_cases hk : a = k
      · have : n ≠ k := fun e => ha (hk.trans e.symm)
        simp [hk, this]
      · simp [hk]

/-- Rule R49: a general-purpose register holds the last value written to it, and no other register's. -/
@[simp] theorem Memory.read_write (m : List Host.Cell) (n k : Nat) (v : Byte) :
    Memory.read (Memory.write m n v) k = if n = k then v else Memory.read m k := by
  unfold Memory.read Memory.write
  split
  · next h => by_cases hk : n = k <;> simp [hk, h]
  · by_cases hk : n = k <;> simp [hk]

theorem mem_insertCell {m : List (Nat × α)} {n : Nat} {v : α} {x : Nat × α}
    (h : x ∈ insertCell m n v) : x = (n, v) ∨ x ∈ m := by
  induction m with
  | nil => simpa [insertCell] using h
  | cons y rest ih =>
    obtain ⟨a, z⟩ := y
    simp only [insertCell] at h
    split at h
    · simpa using h
    · split at h <;> simp only [List.mem_cons] at h ⊢
      · tauto
      · rcases h with h | h
        · tauto
        · rcases ih h with h | h <;> tauto

theorem mem_eraseCell {m : List (Nat × α)} {n : Nat} {x : Nat × α} (h : x ∈ eraseCell m n) : x ∈ m := by
  induction m with
  | nil => simp [eraseCell] at h
  | cons y rest ih =>
    obtain ⟨a, z⟩ := y
    simp only [eraseCell] at h
    split at h
    · exact List.mem_cons_of_mem _ (ih h)
    · rcases List.mem_cons.1 h with h | h
      · exact h ▸ List.mem_cons_self
      · exact List.mem_cons_of_mem _ (ih h)

theorem sortedCells_insertCell {m : List (Nat × α)} (n : Nat) (v : α) (h : sortedCells m = true) :
    sortedCells (insertCell m n v) = true := by
  simp only [sortedCells, decide_eq_true_eq] at h ⊢
  induction m with
  | nil => simp [insertCell]
  | cons y rest ih =>
    obtain ⟨a, z⟩ := y
    obtain ⟨hy, hrest⟩ := List.pairwise_cons.1 h
    simp only [insertCell]
    split
    · next hlt =>
      refine List.pairwise_cons.2 ⟨?_, h⟩
      intro x hx
      rcases List.mem_cons.1 hx with hx | hx
      · simpa [hx] using hlt
      · exact lt_trans hlt (hy x hx)
    · split
      · next h2 => subst h2; exact List.pairwise_cons.2 ⟨hy, hrest⟩
      · next h1 h2 =>
        refine List.pairwise_cons.2 ⟨?_, ih hrest⟩
        intro x hx
        rcases mem_insertCell hx with hx | hx
        · subst hx; simp only; omega
        · exact hy x hx

theorem sortedCells_eraseCell {m : List (Nat × α)} (n : Nat) (h : sortedCells m = true) :
    sortedCells (eraseCell m n) = true := by
  simp only [sortedCells, decide_eq_true_eq] at h ⊢
  induction m with
  | nil => simp [eraseCell]
  | cons y rest ih =>
    obtain ⟨a, z⟩ := y
    obtain ⟨hy, hrest⟩ := List.pairwise_cons.1 h
    simp only [eraseCell]
    split
    · exact ih hrest
    · exact List.pairwise_cons.2 ⟨fun x hx => hy x (mem_eraseCell hx), ih hrest⟩

/-- A write keeps the canonical form of the general-purpose registers. -/
theorem Memory.wf_write {m : List Host.Cell} (n : Nat) (v : Byte) (h : Memory.wf m = true) :
    Memory.wf (Memory.write m n v) = true := by
  simp only [Memory.wf, Bool.and_eq_true, List.all_eq_true, bne_iff_ne] at h ⊢
  obtain ⟨hs, hd⟩ := h
  unfold Memory.write
  split
  · exact ⟨sortedCells_eraseCell n hs, fun x hx => hd x (mem_eraseCell hx)⟩
  · next hv =>
    refine ⟨sortedCells_insertCell n v hs, fun x hx => ?_⟩
    rcases mem_insertCell hx with hx | hx
    · subst hx; exact hv
    · exact hd x hx

/-- The memory made of any list of cells is canonical. -/
theorem Memory.wf_ofCells (l : List Host.Cell) : Memory.wf (Memory.ofCells l) = true := by
  induction l with
  | nil => decide
  | cons x rest ih => obtain ⟨n, v⟩ := x; exact Memory.wf_write n v ih

/-- Loading a word keeps the canonical form of program memory. -/
theorem ProgMem.wf_write {m : List (Nat × InstrWord)} (n : Nat) (w : InstrWord)
    (h : ProgMem.wf m = true) : ProgMem.wf (ProgMem.write m n w) = true :=
  sortedCells_insertCell n w h

/-- Rule R61: a program address holds the word placed there, and no other address's. -/
@[simp] theorem ProgMem.read_write (m : List (Nat × InstrWord)) (n k : Nat) (w : InstrWord) :
    ProgMem.read (ProgMem.write m n w) k = if n = k then some w else ProgMem.read m k := by
  simp [ProgMem.read, ProgMem.write]

end Sys2Proof.Machine
end

