-- ==== Sys2Proof/Laws/State.lean ====
section
/-! SUPPORT. One lemma per field for every record update the meanings are made of, each true by
definition, so that no proof unfolds a record update. -/
namespace Sys2Proof.Machine

@[simp] theorem State.putStatusBit_cfg (s : State) (p : BitNum) (x : Bool) : (s.putStatusBit p x).cfg = s.cfg := rfl
@[simp] theorem State.putStatusBit_w (s : State) (p : BitNum) (x : Bool) : (s.putStatusBit p x).w = s.w := rfl
@[simp] theorem State.putStatusBit_status (s : State) (p : BitNum) (x : Bool) : (s.putStatusBit p x).status = putBit s.status p x := rfl
@[simp] theorem State.putStatusBit_fsr (s : State) (p : BitNum) (x : Bool) : (s.putStatusBit p x).fsr = s.fsr := rfl
@[simp] theorem State.putStatusBit_pclath (s : State) (p : BitNum) (x : Bool) : (s.putStatusBit p x).pclath = s.pclath := rfl
@[simp] theorem State.putStatusBit_optionReg (s : State) (p : BitNum) (x : Bool) : (s.putStatusBit p x).optionReg = s.optionReg := rfl
@[simp] theorem State.putStatusBit_gieReg (s : State) (p : BitNum) (x : Bool) : (s.putStatusBit p x).gieReg = s.gieReg := rfl
@[simp] theorem State.putStatusBit_pc (s : State) (p : BitNum) (x : Bool) : (s.putStatusBit p x).pc = s.pc := rfl
@[simp] theorem State.putStatusBit_stack (s : State) (p : BitNum) (x : Bool) : (s.putStatusBit p x).stack = s.stack := rfl
@[simp] theorem State.putStatusBit_stale (s : State) (p : BitNum) (x : Bool) : (s.putStatusBit p x).stale = s.stale := rfl
@[simp] theorem State.putStatusBit_ram (s : State) (p : BitNum) (x : Bool) : (s.putStatusBit p x).ram = s.ram := rfl
@[simp] theorem State.putStatusBit_prog (s : State) (p : BitNum) (x : Bool) : (s.putStatusBit p x).prog = s.prog := rfl
@[simp] theorem State.putStatusBit_wdt (s : State) (p : BitNum) (x : Bool) : (s.putStatusBit p x).wdt = s.wdt := rfl
@[simp] theorem State.putStatusBit_wdtPrescaler (s : State) (p : BitNum) (x : Bool) : (s.putStatusBit p x).wdtPrescaler = s.wdtPrescaler := rfl
@[simp] theorem State.putStatusBit_mode (s : State) (p : BitNum) (x : Bool) : (s.putStatusBit p x).mode = s.mode := rfl
@[simp] theorem State.putStatusBit_cycles (s : State) (p : BitNum) (x : Bool) : (s.putStatusBit p x).cycles = s.cycles := rfl
@[simp] theorem State.putStatusBit_intHoldoff (s : State) (p : BitNum) (x : Bool) : (s.putStatusBit p x).intHoldoff = s.intHoldoff := rfl
@[simp] theorem State.putStatusBit_inputs (s : State) (p : BitNum) (x : Bool) : (s.putStatusBit p x).inputs = s.inputs := rfl
@[simp] theorem State.putStatusBit_outputs (s : State) (p : BitNum) (x : Bool) : (s.putStatusBit p x).outputs = s.outputs := rfl
@[simp] theorem State.putStatusBit_freeIx (s : State) (p : BitNum) (x : Bool) : (s.putStatusBit p x).freeIx = s.freeIx := rfl

@[simp] theorem State.setGie_cfg (s : State) (x : Bool) : (s.setGie x).cfg = s.cfg := rfl
@[simp] theorem State.setGie_w (s : State) (x : Bool) : (s.setGie x).w = s.w := rfl
@[simp] theorem State.setGie_status (s : State) (x : Bool) : (s.setGie x).status = s.status := rfl
@[simp] theorem State.setGie_fsr (s : State) (x : Bool) : (s.setGie x).fsr = s.fsr := rfl
@[simp] theorem State.setGie_pclath (s : State) (x : Bool) : (s.setGie x).pclath = s.pclath := rfl
@[simp] theorem State.setGie_optionReg (s : State) (x : Bool) : (s.setGie x).optionReg = s.optionReg := rfl
@[simp] theorem State.setGie_gieReg (s : State) (x : Bool) : (s.setGie x).gieReg = putBit s.gieReg s.cfg.bitGie x := rfl
@[simp] theorem State.setGie_pc (s : State) (x : Bool) : (s.setGie x).pc = s.pc := rfl
@[simp] theorem State.setGie_stack (s : State) (x : Bool) : (s.setGie x).stack = s.stack := rfl
@[simp] theorem State.setGie_stale (s : State) (x : Bool) : (s.setGie x).stale = s.stale := rfl
@[simp] theorem State.setGie_ram (s : State) (x : Bool) : (s.setGie x).ram = s.ram := rfl
@[simp] theorem State.setGie_prog (s : State) (x : Bool) : (s.setGie x).prog = s.prog := rfl
@[simp] theorem State.setGie_wdt (s : State) (x : Bool) : (s.setGie x).wdt = s.wdt := rfl
@[simp] theorem State.setGie_wdtPrescaler (s : State) (x : Bool) : (s.setGie x).wdtPrescaler = s.wdtPrescaler := rfl
@[simp] theorem State.setGie_mode (s : State) (x : Bool) : (s.setGie x).mode = s.mode := rfl
@[simp] theorem State.setGie_cycles (s : State) (x : Bool) : (s.setGie x).cycles = s.cycles := rfl
@[simp] theorem State.setGie_intHoldoff (s : State) (x : Bool) : (s.setGie x).intHoldoff = s.intHoldoff := rfl
@[simp] theorem State.setGie_inputs (s : State) (x : Bool) : (s.setGie x).inputs = s.inputs := rfl
@[simp] theorem State.setGie_outputs (s : State) (x : Bool) : (s.setGie x).outputs = s.outputs := rfl
@[simp] theorem State.setGie_freeIx (s : State) (x : Bool) : (s.setGie x).freeIx = s.freeIx := rfl

@[simp] theorem State.advance_cfg (s : State) : (s.advance).cfg = s.cfg := rfl
@[simp] theorem State.advance_w (s : State) : (s.advance).w = s.w := rfl
@[simp] theorem State.advance_status (s : State) : (s.advance).status = s.status := rfl
@[simp] theorem State.advance_fsr (s : State) : (s.advance).fsr = s.fsr := rfl
@[simp] theorem State.advance_pclath (s : State) : (s.advance).pclath = s.pclath := rfl
@[simp] theorem State.advance_optionReg (s : State) : (s.advance).optionReg = s.optionReg := rfl
@[simp] theorem State.advance_gieReg (s : State) : (s.advance).gieReg = s.gieReg := rfl
@[simp] theorem State.advance_pc (s : State) : (s.advance).pc = s.pc + 1 := rfl
@[simp] theorem State.advance_stack (s : State) : (s.advance).stack = s.stack := rfl
@[simp] theorem State.advance_stale (s : State) : (s.advance).stale = s.stale := rfl
@[simp] theorem State.advance_ram (s : State) : (s.advance).ram = s.ram := rfl
@[simp] theorem State.advance_prog (s : State) : (s.advance).prog = s.prog := rfl
@[simp] theorem State.advance_wdt (s : State) : (s.advance).wdt = s.wdt := rfl
@[simp] theorem State.advance_wdtPrescaler (s : State) : (s.advance).wdtPrescaler = s.wdtPrescaler := rfl
@[simp] theorem State.advance_mode (s : State) : (s.advance).mode = s.mode := rfl
@[simp] theorem State.advance_cycles (s : State) : (s.advance).cycles = s.cycles + 1 := rfl
@[simp] theorem State.advance_intHoldoff (s : State) : (s.advance).intHoldoff = s.intHoldoff := rfl
@[simp] theorem State.advance_inputs (s : State) : (s.advance).inputs = s.inputs := rfl
@[simp] theorem State.advance_outputs (s : State) : (s.advance).outputs = s.outputs := rfl
@[simp] theorem State.advance_freeIx (s : State) : (s.advance).freeIx = s.freeIx := rfl

@[simp] theorem State.jump_cfg (s : State) (a : Pc) : (s.jump a).cfg = s.cfg := rfl
@[simp] theorem State.jump_w (s : State) (a : Pc) : (s.jump a).w = s.w := rfl
@[simp] theorem State.jump_status (s : State) (a : Pc) : (s.jump a).status = s.status := rfl
@[simp] theorem State.jump_fsr (s : State) (a : Pc) : (s.jump a).fsr = s.fsr := rfl
@[simp] theorem State.jump_pclath (s : State) (a : Pc) : (s.jump a).pclath = s.pclath := rfl
@[simp] theorem State.jump_optionReg (s : State) (a : Pc) : (s.jump a).optionReg = s.optionReg := rfl
@[simp] theorem State.jump_gieReg (s : State) (a : Pc) : (s.jump a).gieReg = s.gieReg := rfl
@[simp] theorem State.jump_pc (s : State) (a : Pc) : (s.jump a).pc = a := rfl
@[simp] theorem State.jump_stack (s : State) (a : Pc) : (s.jump a).stack = s.stack := rfl
@[simp] theorem State.jump_stale (s : State) (a : Pc) : (s.jump a).stale = s.stale := rfl
@[simp] theorem State.jump_ram (s : State) (a : Pc) : (s.jump a).ram = s.ram := rfl
@[simp] theorem State.jump_prog (s : State) (a : Pc) : (s.jump a).prog = s.prog := rfl
@[simp] theorem State.jump_wdt (s : State) (a : Pc) : (s.jump a).wdt = s.wdt := rfl
@[simp] theorem State.jump_wdtPrescaler (s : State) (a : Pc) : (s.jump a).wdtPrescaler = s.wdtPrescaler := rfl
@[simp] theorem State.jump_mode (s : State) (a : Pc) : (s.jump a).mode = s.mode := rfl
@[simp] theorem State.jump_cycles (s : State) (a : Pc) : (s.jump a).cycles = s.cycles + 2 := rfl
@[simp] theorem State.jump_intHoldoff (s : State) (a : Pc) : (s.jump a).intHoldoff = s.intHoldoff := rfl
@[simp] theorem State.jump_inputs (s : State) (a : Pc) : (s.jump a).inputs = s.inputs := rfl
@[simp] theorem State.jump_outputs (s : State) (a : Pc) : (s.jump a).outputs = s.outputs := rfl
@[simp] theorem State.jump_freeIx (s : State) (a : Pc) : (s.jump a).freeIx = s.freeIx := rfl

@[simp] theorem State.clearWatchdog_cfg (s : State) : (s.clearWatchdog).cfg = s.cfg := rfl
@[simp] theorem State.clearWatchdog_w (s : State) : (s.clearWatchdog).w = s.w := rfl
@[simp] theorem State.clearWatchdog_status (s : State) : (s.clearWatchdog).status = s.status := rfl
@[simp] theorem State.clearWatchdog_fsr (s : State) : (s.clearWatchdog).fsr = s.fsr := rfl
@[simp] theorem State.clearWatchdog_pclath (s : State) : (s.clearWatchdog).pclath = s.pclath := rfl
@[simp] theorem State.clearWatchdog_optionReg (s : State) : (s.clearWatchdog).optionReg = s.optionReg := rfl
@[simp] theorem State.clearWatchdog_gieReg (s : State) : (s.clearWatchdog).gieReg = s.gieReg := rfl
@[simp] theorem State.clearWatchdog_pc (s : State) : (s.clearWatchdog).pc = s.pc := rfl
@[simp] theorem State.clearWatchdog_stack (s : State) : (s.clearWatchdog).stack = s.stack := rfl
@[simp] theorem State.clearWatchdog_stale (s : State) : (s.clearWatchdog).stale = s.stale := rfl
@[simp] theorem State.clearWatchdog_ram (s : State) : (s.clearWatchdog).ram = s.ram := rfl
@[simp] theorem State.clearWatchdog_prog (s : State) : (s.clearWatchdog).prog = s.prog := rfl
@[simp] theorem State.clearWatchdog_wdt (s : State) : (s.clearWatchdog).wdt = 0 := rfl
@[simp] theorem State.clearWatchdog_wdtPrescaler (s : State) : (s.clearWatchdog).wdtPrescaler = 0 := rfl
@[simp] theorem State.clearWatchdog_mode (s : State) : (s.clearWatchdog).mode = s.mode := rfl
@[simp] theorem State.clearWatchdog_cycles (s : State) : (s.clearWatchdog).cycles = s.cycles := rfl
@[simp] theorem State.clearWatchdog_intHoldoff (s : State) : (s.clearWatchdog).intHoldoff = s.intHoldoff := rfl
@[simp] theorem State.clearWatchdog_inputs (s : State) : (s.clearWatchdog).inputs = s.inputs := rfl
@[simp] theorem State.clearWatchdog_outputs (s : State) : (s.clearWatchdog).outputs = s.outputs := rfl
@[simp] theorem State.clearWatchdog_freeIx (s : State) : (s.clearWatchdog).freeIx = s.freeIx := rfl

@[simp] theorem State.interruptWake_cfg (s : State) : (s.interruptWake).cfg = s.cfg := rfl
@[simp] theorem State.interruptWake_w (s : State) : (s.interruptWake).w = s.w := rfl
@[simp] theorem State.interruptWake_status (s : State) : (s.interruptWake).status = s.status := rfl
@[simp] theorem State.interruptWake_fsr (s : State) : (s.interruptWake).fsr = s.fsr := rfl
@[simp] theorem State.interruptWake_pclath (s : State) : (s.interruptWake).pclath = s.pclath := rfl
@[simp] theorem State.interruptWake_optionReg (s : State) : (s.interruptWake).optionReg = s.optionReg := rfl
@[simp] theorem State.interruptWake_gieReg (s : State) : (s.interruptWake).gieReg = s.gieReg := rfl
@[simp] theorem State.interruptWake_pc (s : State) : (s.interruptWake).pc = s.pc := rfl
@[simp] theorem State.interruptWake_stack (s : State) : (s.interruptWake).stack = s.stack := rfl
@[simp] theorem State.interruptWake_stale (s : State) : (s.interruptWake).stale = s.stale := rfl
@[simp] theorem State.interruptWake_ram (s : State) : (s.interruptWake).ram = s.ram := rfl
@[simp] theorem State.interruptWake_prog (s : State) : (s.interruptWake).prog = s.prog := rfl
@[simp] theorem State.interruptWake_wdt (s : State) : (s.interruptWake).wdt = s.wdt := rfl
@[simp] theorem State.interruptWake_wdtPrescaler (s : State) : (s.interruptWake).wdtPrescaler = s.wdtPrescaler := rfl
@[simp] theorem State.interruptWake_mode (s : State) : (s.interruptWake).mode = .run := rfl
@[simp] theorem State.interruptWake_cycles (s : State) : (s.interruptWake).cycles = s.cycles := rfl
@[simp] theorem State.interruptWake_intHoldoff (s : State) : (s.interruptWake).intHoldoff = true := rfl
@[simp] theorem State.interruptWake_inputs (s : State) : (s.interruptWake).inputs = s.inputs := rfl
@[simp] theorem State.interruptWake_outputs (s : State) : (s.interruptWake).outputs = s.outputs := rfl
@[simp] theorem State.interruptWake_freeIx (s : State) : (s.interruptWake).freeIx = s.freeIx := rfl

@[simp] theorem State.setC_eq (s : State) (x : Bool) : s.setC x = s.putStatusBit s.cfg.bitC x := rfl
@[simp] theorem State.setDc_eq (s : State) (x : Bool) : s.setDc x = s.putStatusBit s.cfg.bitDc x := rfl
@[simp] theorem State.setZ_eq (s : State) (x : Bool) : s.setZ x = s.putStatusBit s.cfg.bitZ x := rfl
@[simp] theorem State.setPd_eq (s : State) (x : Bool) : s.setPd x = s.putStatusBit s.cfg.bitPd x := rfl
@[simp] theorem State.setTo_eq (s : State) (x : Bool) : s.setTo x = s.putStatusBit s.cfg.bitTo x := rfl
@[simp] theorem State.setZOf_eq (s : State) (r : Byte) : s.setZOf r = s.putStatusBit s.cfg.bitZ (r == 0) := rfl
@[simp] theorem State.setCDcZ_eq (s : State) (a : AluResult) :
    s.setCDcZ a =
      ((s.putStatusBit s.cfg.bitC a.c).putStatusBit s.cfg.bitDc a.dc).putStatusBit s.cfg.bitZ a.z := rfl

@[simp] theorem State.takeInput_cfg (s : State) : s.takeInput.cfg = s.cfg := rfl
@[simp] theorem State.takeInput_w (s : State) : s.takeInput.w = s.w := rfl
@[simp] theorem State.takeInput_status (s : State) : s.takeInput.status = s.status := rfl
@[simp] theorem State.takeInput_fsr (s : State) : s.takeInput.fsr = s.fsr := rfl
@[simp] theorem State.takeInput_pclath (s : State) : s.takeInput.pclath = s.pclath := rfl
@[simp] theorem State.takeInput_optionReg (s : State) : s.takeInput.optionReg = s.optionReg := rfl
@[simp] theorem State.takeInput_gieReg (s : State) : s.takeInput.gieReg = s.gieReg := rfl
@[simp] theorem State.takeInput_pc (s : State) : s.takeInput.pc = s.pc := rfl
@[simp] theorem State.takeInput_stack (s : State) : s.takeInput.stack = s.stack := rfl
@[simp] theorem State.takeInput_stale (s : State) : s.takeInput.stale = s.stale := rfl
@[simp] theorem State.takeInput_ram (s : State) : s.takeInput.ram = s.ram := rfl
@[simp] theorem State.takeInput_prog (s : State) : s.takeInput.prog = s.prog := rfl
@[simp] theorem State.takeInput_mode (s : State) : s.takeInput.mode = s.mode := rfl
@[simp] theorem State.takeInput_cycles (s : State) : s.takeInput.cycles = s.cycles := rfl
@[simp] theorem State.takeInput_intHoldoff (s : State) : s.takeInput.intHoldoff = false := rfl
@[simp] theorem State.takeInput_inputs (s : State) : s.takeInput.inputs = s.inputs.tail := rfl
@[simp] theorem State.takeInput_outputs (s : State) : s.takeInput.outputs = s.outputs := rfl
@[simp] theorem State.takeInput_freeIx (s : State) : s.takeInput.freeIx = s.freeIx := rfl

/-- Where the watchdog is enabled or its counters did not move, taking the input leaves them alone
otherwise as the environment set them (rules R44, R243). -/
theorem State.takeInput_wdt (s : State) :
    s.takeInput.wdt = if s.cfg.wdtEnabled then (s.input.wdtCounters.getD (s.wdt, s.wdtPrescaler)).1 else s.wdt := by
  unfold State.takeInput
  split <;> simp_all

theorem State.takeInput_wdtPrescaler (s : State) :
    s.takeInput.wdtPrescaler =
      if s.cfg.wdtEnabled then (s.input.wdtCounters.getD (s.wdt, s.wdtPrescaler)).2 else s.wdtPrescaler := by
  unfold State.takeInput
  split <;> simp_all

@[simp] theorem State.resetCommon_cfg (s : State) (u : Unspecified) (x : Byte) : (s.resetCommon u x).cfg = s.cfg := rfl
@[simp] theorem State.resetCommon_w (s : State) (u : Unspecified) (x : Byte) : (s.resetCommon u x).w = s.w := rfl
@[simp] theorem State.resetCommon_status (s : State) (u : Unspecified) (x : Byte) : (s.resetCommon u x).status = x := rfl
@[simp] theorem State.resetCommon_fsr (s : State) (u : Unspecified) (x : Byte) : (s.resetCommon u x).fsr = s.fsr := rfl
@[simp] theorem State.resetCommon_pclath (s : State) (u : Unspecified) (x : Byte) : (s.resetCommon u x).pclath = 0 := rfl
@[simp] theorem State.resetCommon_optionReg (s : State) (u : Unspecified) (x : Byte) : (s.resetCommon u x).optionReg = u.optionReg := rfl
@[simp] theorem State.resetCommon_gieReg (s : State) (u : Unspecified) (x : Byte) : (s.resetCommon u x).gieReg = 0 := rfl
@[simp] theorem State.resetCommon_pc (s : State) (u : Unspecified) (x : Byte) : (s.resetCommon u x).pc = s.cfg.resetVector := rfl
@[simp] theorem State.resetCommon_stack (s : State) (u : Unspecified) (x : Byte) : (s.resetCommon u x).stack = [] := rfl
@[simp] theorem State.resetCommon_stale (s : State) (u : Unspecified) (x : Byte) : (s.resetCommon u x).stale = fitEntries s.cfg.stackDepth u.entries := rfl
@[simp] theorem State.resetCommon_ram (s : State) (u : Unspecified) (x : Byte) : (s.resetCommon u x).ram = s.ram := rfl
@[simp] theorem State.resetCommon_prog (s : State) (u : Unspecified) (x : Byte) : (s.resetCommon u x).prog = s.prog := rfl
@[simp] theorem State.resetCommon_wdt (s : State) (u : Unspecified) (x : Byte) : (s.resetCommon u x).wdt = 0 := rfl
@[simp] theorem State.resetCommon_wdtPrescaler (s : State) (u : Unspecified) (x : Byte) : (s.resetCommon u x).wdtPrescaler = 0 := rfl
@[simp] theorem State.resetCommon_mode (s : State) (u : Unspecified) (x : Byte) : (s.resetCommon u x).mode = .run := rfl
@[simp] theorem State.resetCommon_cycles (s : State) (u : Unspecified) (x : Byte) : (s.resetCommon u x).cycles = 0 := rfl
@[simp] theorem State.resetCommon_intHoldoff (s : State) (u : Unspecified) (x : Byte) : (s.resetCommon u x).intHoldoff = false := rfl
@[simp] theorem State.resetCommon_inputs (s : State) (u : Unspecified) (x : Byte) : (s.resetCommon u x).inputs = s.inputs := rfl
@[simp] theorem State.resetCommon_outputs (s : State) (u : Unspecified) (x : Byte) : (s.resetCommon u x).outputs = s.outputs := rfl
@[simp] theorem State.resetCommon_freeIx (s : State) (u : Unspecified) (x : Byte) : (s.resetCommon u x).freeIx = s.freeIx := rfl

/-! Reading a cell changes nothing but the count of free values drawn. -/

@[simp] theorem State.afterReadCell_cfg (s : State) (c : Cell) : (s.afterReadCell c).cfg = s.cfg := by
  cases c <;> rfl
@[simp] theorem State.afterReadCell_w (s : State) (c : Cell) : (s.afterReadCell c).w = s.w := by
  cases c <;> rfl
@[simp] theorem State.afterReadCell_status (s : State) (c : Cell) : (s.afterReadCell c).status = s.status := by
  cases c <;> rfl
@[simp] theorem State.afterReadCell_fsr (s : State) (c : Cell) : (s.afterReadCell c).fsr = s.fsr := by
  cases c <;> rfl
@[simp] theorem State.afterReadCell_pclath (s : State) (c : Cell) : (s.afterReadCell c).pclath = s.pclath := by
  cases c <;> rfl
@[simp] theorem State.afterReadCell_optionReg (s : State) (c : Cell) : (s.afterReadCell c).optionReg = s.optionReg := by
  cases c <;> rfl
@[simp] theorem State.afterReadCell_gieReg (s : State) (c : Cell) : (s.afterReadCell c).gieReg = s.gieReg := by
  cases c <;> rfl
@[simp] theorem State.afterReadCell_pc (s : State) (c : Cell) : (s.afterReadCell c).pc = s.pc := by
  cases c <;> rfl
@[simp] theorem State.afterReadCell_stack (s : State) (c : Cell) : (s.afterReadCell c).stack = s.stack := by
  cases c <;> rfl
@[simp] theorem State.afterReadCell_stale (s : State) (c : Cell) : (s.afterReadCell c).stale = s.stale := by
  cases c <;> rfl
@[simp] theorem State.afterReadCell_ram (s : State) (c : Cell) : (s.afterReadCell c).ram = s.ram := by
  cases c <;> rfl
@[simp] theorem State.afterReadCell_prog (s : State) (c : Cell) : (s.afterReadCell c).prog = s.prog := by
  cases c <;> rfl
@[simp] theorem State.afterReadCell_wdt (s : State) (c : Cell) : (s.afterReadCell c).wdt = s.wdt := by
  cases c <;> rfl
@[simp] theorem State.afterReadCell_wdtPrescaler (s : State) (c : Cell) : (s.afterReadCell c).wdtPrescaler = s.wdtPrescaler := by
  cases c <;> rfl
@[simp] theorem State.afterReadCell_mode (s : State) (c : Cell) : (s.afterReadCell c).mode = s.mode := by
  cases c <;> rfl
@[simp] theorem State.afterReadCell_cycles (s : State) (c : Cell) : (s.afterReadCell c).cycles = s.cycles := by
  cases c <;> rfl
@[simp] theorem State.afterReadCell_intHoldoff (s : State) (c : Cell) : (s.afterReadCell c).intHoldoff = s.intHoldoff := by
  cases c <;> rfl
@[simp] theorem State.afterReadCell_inputs (s : State) (c : Cell) : (s.afterReadCell c).inputs = s.inputs := by
  cases c <;> rfl
@[simp] theorem State.afterReadCell_outputs (s : State) (c : Cell) : (s.afterReadCell c).outputs = s.outputs := by
  cases c <;> rfl

/-! Writing a cell leaves alone what no cell holds. -/

@[simp] theorem State.writeCell_cfg (s : State) (c : Cell) (v : Byte) : (s.writeCell c v).cfg = s.cfg := by
  cases c <;> rfl
@[simp] theorem State.writeCell_w (s : State) (c : Cell) (v : Byte) : (s.writeCell c v).w = s.w := by
  cases c <;> rfl
@[simp] theorem State.writeCell_pc (s : State) (c : Cell) (v : Byte) : (s.writeCell c v).pc = s.pc := by
  cases c <;> rfl
@[simp] theorem State.writeCell_stack (s : State) (c : Cell) (v : Byte) : (s.writeCell c v).stack = s.stack := by
  cases c <;> rfl
@[simp] theorem State.writeCell_stale (s : State) (c : Cell) (v : Byte) : (s.writeCell c v).stale = s.stale := by
  cases c <;> rfl
@[simp] theorem State.writeCell_prog (s : State) (c : Cell) (v : Byte) : (s.writeCell c v).prog = s.prog := by
  cases c <;> rfl
@[simp] theorem State.writeCell_wdt (s : State) (c : Cell) (v : Byte) : (s.writeCell c v).wdt = s.wdt := by
  cases c <;> rfl
@[simp] theorem State.writeCell_wdtPrescaler (s : State) (c : Cell) (v : Byte) : (s.writeCell c v).wdtPrescaler = s.wdtPrescaler := by
  cases c <;> rfl
@[simp] theorem State.writeCell_mode (s : State) (c : Cell) (v : Byte) : (s.writeCell c v).mode = s.mode := by
  cases c <;> rfl
@[simp] theorem State.writeCell_cycles (s : State) (c : Cell) (v : Byte) : (s.writeCell c v).cycles = s.cycles := by
  cases c <;> rfl
@[simp] theorem State.writeCell_intHoldoff (s : State) (c : Cell) (v : Byte) : (s.writeCell c v).intHoldoff = s.intHoldoff := by
  cases c <;> rfl
@[simp] theorem State.writeCell_inputs (s : State) (c : Cell) (v : Byte) : (s.writeCell c v).inputs = s.inputs := by
  cases c <;> rfl
@[simp] theorem State.writeCell_freeIx (s : State) (c : Cell) (v : Byte) : (s.writeCell c v).freeIx = s.freeIx := by
  cases c <;> rfl

/-- What a write makes of each register a cell can be (rules R31, R32, R34, R35, R36, R69). -/
@[simp] theorem State.writeCell_fsr (s : State) (c : Cell) (v : Byte) :
    (s.writeCell c v).fsr = if c = .fsr then v else s.fsr := by
  cases c <;> rfl
@[simp] theorem State.writeCell_status (s : State) (c : Cell) (v : Byte) :
    (s.writeCell c v).status = if c = .status then statusAfterWrite s.cfg s.status v else s.status := by
  cases c <;> rfl
@[simp] theorem State.writeCell_pclath (s : State) (c : Cell) (v : Byte) :
    (s.writeCell c v).pclath = if c = .pclath then v.extractLsb' 0 5 else s.pclath := by
  cases c <;> rfl
@[simp] theorem State.writeCell_optionReg (s : State) (c : Cell) (v : Byte) :
    (s.writeCell c v).optionReg = if c = .optionReg then v else s.optionReg := by
  cases c <;> rfl
@[simp] theorem State.writeCell_gieReg (s : State) (c : Cell) (v : Byte) :
    (s.writeCell c v).gieReg = if c = .gieReg then v else s.gieReg := by
  cases c <;> rfl

end Sys2Proof.Machine
end

