-- ==== Sys2Proof/Laws/Ops.lean ====
section
/-! SUPPORT. For each shared operation one lemma that says everything it can do: the stack, the read and
the write of a file register, and the end of an instruction. -/
namespace Sys2Proof.Machine

/-! ### The stack -/

/-- Everything `Push` can do (rules R41, R43). -/
theorem State.push_cases {s t : State} {v : Pc} (h : s.push v = some t) :
    (s.stack.length < s.cfg.stackDepth ∧ t = { s with stack := v :: s.stack, stale := s.stale.dropLast }) ∨
    (s.cfg.stackDepth ≤ s.stack.length ∧ s.cfg.stackWrap = true ∧
      t = { s with stack := (v :: s.stack).take s.cfg.stackDepth }) := by
  unfold State.push at h
  split at h
  · next hl => exact .inl ⟨hl, (Option.some.inj h).symm⟩
  · next hl =>
    split at h
    · next hw => exact .inr ⟨Nat.le_of_not_lt hl, hw, (Option.some.inj h).symm⟩
    · cases h

/-- `Push` has no result exactly on a full stack that does not wrap (rule R43). -/
theorem State.push_eq_none (s : State) (v : Pc) :
    s.push v = none ↔ s.cfg.stackDepth ≤ s.stack.length ∧ s.cfg.stackWrap = false := by
  unfold State.push
  split
  · simp; omega
  · split <;> simp_all

/-- Everything `Pop` can do (rules R42, R43). -/
theorem State.pop_cases {s t : State} {a : Pc} (h : s.pop = some (a, t)) :
    (∃ rest, s.stack = a :: rest ∧ t = { s with stack := rest, stale := s.stale ++ [a] }) ∨
    (s.stack = [] ∧ s.cfg.stackWrap = true ∧ ∃ rest, s.stale = a :: rest ∧
      t = { s with stale := rest ++ [a] }) := by
  unfold State.pop at h
  split at h
  · next v rest hs =>
    obtain ⟨rfl, rfl⟩ := Prod.mk.inj (Option.some.inj h)
    exact .inl ⟨rest, hs, rfl⟩
  · next hs =>
    split at h
    · next hw =>
      split at h
      · next v rest hst =>
        obtain ⟨rfl, rfl⟩ := Prod.mk.inj (Option.some.inj h)
        exact .inr ⟨hs, hw, rest, hst, rfl⟩
      · cases h
    · cases h

/-- `Pop` has no result exactly on an empty stack that does not wrap or has no entry (rule R43). -/
theorem State.pop_eq_none (s : State) :
    s.pop = none ↔ s.stack = [] ∧ (s.cfg.stackWrap = false ∨ s.stale = []) := by
  unfold State.pop
  split
  · simp_all
  · split
    · split <;> simp_all
    · simp_all

/-! ### Reading and writing a file register -/

/-- A constant bank bit (rule R64). -/
theorem State.bankBit_of_fixed {s : State} {b : Bool} (h : s.cfg.bank = .fixed b) : s.bankBit = b := by
  simp [State.bankBit, h, evalBank]

/-- A bank bit that is a bit of one source (rules R3, R64). -/
theorem State.bankBit_of_bitOf {s : State} {k : BankSource} {p : Nat} (h : s.cfg.bank = .bitOf k p) :
    s.bankBit = (s.bankValue k).testBit p := by
  simp [State.bankBit, h, BankSelect.bitOf, evalBank]

/-- A bank bit that is a bit of `STATUS`, as under P-GK (rule R64). -/
theorem State.bankBit_of_statusBit {s : State} {p : BitNum} (h : s.cfg.bank = .statusBit p) :
    s.bankBit = getBit s.status p := State.bankBit_of_bitOf h

/-- The bank bit depends on the parameters and the values of its sources alone. -/
theorem State.bankBit_congr {s t : State} (hc : t.cfg = s.cfg) (h : ∀ k, t.bankValue k = s.bankValue k) :
    t.bankBit = s.bankBit := by
  rw [State.bankBit, State.bankBit, hc, funext h]

/-- Reading a file register changes nothing but the count of free values drawn (rules R69, R70). -/
theorem State.afterRead_eq (s : State) (f : FileNum) : ∃ n, s.afterRead f = { s with freeIx := n } := by
  unfold State.afterRead
  cases s.cellOf f <;> exact ⟨_, rfl⟩

@[simp] theorem State.afterRead_effAddr (s : State) (f g : FileNum) :
    (s.afterRead f).effAddr g = s.effAddr g := by
  obtain ⟨n, h⟩ := s.afterRead_eq f; rw [h]; rfl

@[simp] theorem State.afterRead_cellOf (s : State) (f g : FileNum) :
    (s.afterRead f).cellOf g = s.cellOf g := by
  obtain ⟨n, h⟩ := s.afterRead_eq f; rw [h]; rfl

@[simp] theorem State.afterRead_pclTarget (s : State) (f g : FileNum) (d : Dest) (v : Byte) :
    (s.afterRead f).pclTarget g d v = s.pclTarget g d v := by
  obtain ⟨n, h⟩ := s.afterRead_eq f; rw [h]; rfl

@[simp] theorem State.afterRead_cfg (s : State) (f : FileNum) : (s.afterRead f).cfg = s.cfg := by
  simp [State.afterRead]
@[simp] theorem State.afterRead_w (s : State) (f : FileNum) : (s.afterRead f).w = s.w := by
  simp [State.afterRead]
@[simp] theorem State.afterRead_status (s : State) (f : FileNum) : (s.afterRead f).status = s.status := by
  simp [State.afterRead]
@[simp] theorem State.afterRead_fsr (s : State) (f : FileNum) : (s.afterRead f).fsr = s.fsr := by
  simp [State.afterRead]
@[simp] theorem State.afterRead_pclath (s : State) (f : FileNum) : (s.afterRead f).pclath = s.pclath := by
  simp [State.afterRead]
@[simp] theorem State.afterRead_optionReg (s : State) (f : FileNum) : (s.afterRead f).optionReg = s.optionReg := by
  simp [State.afterRead]
@[simp] theorem State.afterRead_gieReg (s : State) (f : FileNum) : (s.afterRead f).gieReg = s.gieReg := by
  simp [State.afterRead]
@[simp] theorem State.afterRead_pc (s : State) (f : FileNum) : (s.afterRead f).pc = s.pc := by
  simp [State.afterRead]
@[simp] theorem State.afterRead_stack (s : State) (f : FileNum) : (s.afterRead f).stack = s.stack := by
  simp [State.afterRead]
@[simp] theorem State.afterRead_stale (s : State) (f : FileNum) : (s.afterRead f).stale = s.stale := by
  simp [State.afterRead]
@[simp] theorem State.afterRead_ram (s : State) (f : FileNum) : (s.afterRead f).ram = s.ram := by
  simp [State.afterRead]
@[simp] theorem State.afterRead_prog (s : State) (f : FileNum) : (s.afterRead f).prog = s.prog := by
  simp [State.afterRead]
@[simp] theorem State.afterRead_wdt (s : State) (f : FileNum) : (s.afterRead f).wdt = s.wdt := by
  simp [State.afterRead]
@[simp] theorem State.afterRead_wdtPrescaler (s : State) (f : FileNum) : (s.afterRead f).wdtPrescaler = s.wdtPrescaler := by
  simp [State.afterRead]
@[simp] theorem State.afterRead_mode (s : State) (f : FileNum) : (s.afterRead f).mode = s.mode := by
  simp [State.afterRead]
@[simp] theorem State.afterRead_cycles (s : State) (f : FileNum) : (s.afterRead f).cycles = s.cycles := by
  simp [State.afterRead]
@[simp] theorem State.afterRead_intHoldoff (s : State) (f : FileNum) : (s.afterRead f).intHoldoff = s.intHoldoff := by
  simp [State.afterRead]
@[simp] theorem State.afterRead_inputs (s : State) (f : FileNum) : (s.afterRead f).inputs = s.inputs := by
  simp [State.afterRead]
@[simp] theorem State.afterRead_outputs (s : State) (f : FileNum) : (s.afterRead f).outputs = s.outputs := by
  simp [State.afterRead]

/-- A read of a register that is no device's changes nothing at all (rule R70). -/
theorem State.afterRead_freeIx (s : State) (f : FileNum) (h : ∀ n, s.cellOf f ≠ .peripheral n) :
    (s.afterRead f).freeIx = s.freeIx := by
  unfold State.afterRead
  cases hc : s.cellOf f <;> first | rfl | exact absurd hc (h _)

@[simp] theorem State.afterRead_flagC (s : State) (f : FileNum) : (s.afterRead f).flagC = s.flagC := by
  simp [State.flagC]

@[simp] theorem State.dest_cfg (s : State) (f : FileNum) (d : Dest) (v : Byte) :
    (s.dest f d v).cfg = s.cfg := by
  cases d <;> simp [State.dest, State.memWrite]

@[simp] theorem State.dest_freeIx (s : State) (f : FileNum) (d : Dest) (v : Byte) :
    (s.dest f d v).freeIx = s.freeIx := by
  cases d <;> simp [State.dest, State.memWrite]

/-- Writing a cell leaves every general-purpose register alone but the one it is (rule R49). -/
@[simp] theorem State.writeCell_read (s : State) (c : Cell) (v : Byte) (n : Nat) :
    Memory.read (s.writeCell c v).ram n = if c = .gpr n then v else Memory.read s.ram n := by
  cases c <;> simp [State.writeCell]

/-- A write is recorded exactly where the cell is a device register (rule R69). -/
theorem State.writeCell_outputs (s : State) (c : Cell) (v : Byte) :
    (s.writeCell c v).outputs =
      match c with
      | .peripheral n => (n, v) :: s.outputs
      | _ => s.outputs := by
  cases c <;> rfl

/-- The canonical form of the general-purpose registers survives any write (rule R66). -/
theorem State.writeCell_wf {s : State} (c : Cell) (v : Byte) (h : Memory.wf s.ram = true) :
    Memory.wf (s.writeCell c v).ram = true := by
  cases c <;> first | exact h | exact Memory.wf_write _ _ h

/-- `MemRead` after `MemWrite` in a cell of plain storage gives the byte written (rule R66). -/
theorem State.readCell_writeCell_storage (s : State) (c : Cell) (v : Byte)
    (h : c = .fsr ∨ c = .optionReg ∨ c = .gieReg ∨ ∃ n, c = .gpr n) :
    (s.writeCell c v).readCell c = v := by
  rcases h with rfl | rfl | rfl | ⟨n, rfl⟩ <;> simp [State.writeCell, State.readCell]

/-- A write to one cell leaves the content of every other cell alone (rules R66, R67). -/
theorem State.readCell_writeCell_other (s : State) (c c' : Cell) (v : Byte) (h : c ≠ c') :
    (s.writeCell c v).readCell c' = s.readCell c' := by
  cases c' <;> simp_all [State.readCell]

/-! ### The end of an instruction -/

/-- A flag update in the sense of rule R29: it changes `STATUS` alone, and there only the bits at the
positions `named`. -/
structure FlagUpdate (c : Config) (named : List BitNum) (g : State → State) : Prop where
  /-- Only `STATUS`. -/
  only : ∀ u, g u = { u with status := (g u).status }
  /-- Only the named bits. -/
  bits : ∀ u p, u.cfg = c → p ∉ named → getBit (g u).status p = getBit u.status p

theorem flagUpdate_id (c : Config) : FlagUpdate c [] id := ⟨fun _ => rfl, fun _ _ _ _ => rfl⟩

theorem flagUpdate_setZ (c : Config) (x : Bool) : FlagUpdate c [c.bitZ] (·.setZ x) :=
  ⟨fun _ => rfl, fun u p hu hp => by subst hu; simp at hp; simp [hp]⟩

theorem flagUpdate_setZOf (c : Config) (r : Byte) : FlagUpdate c [c.bitZ] (·.setZOf r) :=
  flagUpdate_setZ c (r == 0)

theorem flagUpdate_setC (c : Config) (x : Bool) : FlagUpdate c [c.bitC] (·.setC x) :=
  ⟨fun _ => rfl, fun u p hu hp => by subst hu; simp at hp; simp [hp]⟩

theorem flagUpdate_setCDcZ (c : Config) (a : AluResult) :
    FlagUpdate c [c.bitC, c.bitDc, c.bitZ] (·.setCDcZ a) :=
  ⟨fun _ => rfl, fun u p hu hp => by subst hu; simp at hp; simp [hp]⟩

/-- Destination and flags write what `DestFrame` says, whatever becomes of `pc`, `cycles` and the count of
free values drawn (rules R8, R29, R31, R66, R71). -/
theorem destFrame_of_dest {s t : State} {f : FileNum} {d : Dest} {v : Byte} {named : List BitNum}
    {g : State → State} (m : Nat) (hg : FlagUpdate s.cfg named g)
    (ht : ∃ (p : Pc) (c n : Nat),
      t = { g (State.dest { s with freeIx := m } f d v) with pc := p, cycles := c, freeIx := n }) :
    DestFrame s t f d v named := by
  obtain ⟨p, c, n, rfl⟩ := ht
  have hcfg : (State.dest { s with freeIx := m } f d v).cfg = s.cfg := by
    cases d <;> simp [State.dest, State.memWrite]
  have hb := fun q hq => hg.bits _ q hcfg hq
  rw [hg.only]
  cases d with
  | w =>
    have e : State.dest { s with freeIx := m } f .w v = { s with freeIx := m, w := v } := rfl
    rw [e] at hb ⊢
    constructor
    case status => intro q hq; simp [hb q hq, State.writesCell]
    all_goals simp [State.writesCell, State.recordedWrites]
  | f =>
    have e : State.dest { s with freeIx := m } f .f v =
        State.writeCell { s with freeIx := m } (s.cellOf f) v := rfl
    rw [e] at hb ⊢
    constructor
    case status =>
      intro q hq
      simp only [hb q hq]
      by_cases hcs : s.cellOf f = .status <;>
        by_cases h1 : q = s.cfg.bitTo <;> by_cases h2 : q = s.cfg.bitPd <;>
        simp [hcs, h1, h2, State.writesCell]
    case outputs =>
      simp only [State.writeCell_outputs, State.recordedWrites]
      cases s.cellOf f <;> rfl
    all_goals simp [State.writesCell]

/-- Where the end of an instruction leaves `pc` and `cycles` (rules R9, R48). -/
theorem endsNormally_finish {s u : State} {f : FileNum} {d : Dest} {v : Byte}
    (hpc : u.pc = s.pc) (hcy : u.cycles = s.cycles) :
    EndsNormally s (u.finish (s.pclTarget f d v)) f d v := by
  unfold EndsNormally State.writesCell State.pclTarget
  cases d with
  | w => simp [State.finish, hpc, hcy]
  | f => by_cases h : s.cellOf f = .pcl <;> simp [h, State.finish, hpc, hcy]

/-- Everything `complete` does (rules R8, R31, R48, R66, R71), after a read of the operand or without. -/
theorem complete_spec {s s' : State} {f : FileNum} {d : Dest} {v : Byte} {named : List BitNum}
    {g : State → State} (hg : FlagUpdate s.cfg named g) (hs : ∃ m, s' = { s with freeIx := m }) :
    DestFrame s (s'.complete f d v g) f d v named ∧ EndsNormally s (s'.complete f d v g) f d v ∧
      (s'.complete f d v g).status = (g (s'.dest f d v)).status := by
  obtain ⟨m, rfl⟩ := hs
  have htgt : State.pclTarget { s with freeIx := m } f d v = s.pclTarget f d v := rfl
  refine ⟨destFrame_of_dest m hg ?_, ?_, ?_⟩
  · unfold State.complete
    rw [htgt]
    cases s.pclTarget f d v <;> exact ⟨_, _, _, rfl⟩
  · unfold State.complete
    rw [htgt, hg.only]
    apply endsNormally_finish <;> cases d <;> simp [State.dest, State.memWrite]
  · unfold State.complete
    rw [htgt]
    cases s.pclTarget f d v <;> rfl

/-- Everything `completeSkip` does (rules R8, R48, R190, R193, R194), after a read of the operand. -/
theorem completeSkip_spec {s s' : State} {f : FileNum} {d : Dest} {r : Byte}
    (hs : ∃ m, s' = { s with freeIx := m }) :
    DestFrame s (s'.completeSkip f d r) f d r [] ∧ EndsWithSkip s (s'.completeSkip f d r) f d r := by
  obtain ⟨m, rfl⟩ := hs
  have htgt : State.pclTarget { s with freeIx := m } f d r = s.pclTarget f d r := rfl
  have hpc : (State.dest { s with freeIx := m } f d r).pc = s.pc := by
    cases d <;> simp [State.dest, State.memWrite]
  have hcy : (State.dest { s with freeIx := m } f d r).cycles = s.cycles := by
    cases d <;> simp [State.dest, State.memWrite]
  constructor
  · apply destFrame_of_dest m (flagUpdate_id _)
    unfold State.completeSkip
    rw [htgt]
    cases s.pclTarget f d r <;> unfold State.finishSkip State.skipIf <;> dsimp only <;> split <;>
      exact ⟨_, _, _, rfl⟩
  · unfold State.completeSkip
    rw [htgt]
    generalize State.dest { s with freeIx := m } f d r = u at hpc hcy
    unfold EndsWithSkip State.writesCell State.pclTarget
    by_cases hr : r = 0#8
    · cases d <;> by_cases h : s.cellOf f = .pcl <;>
        simp [State.finishSkip, State.skipIf, hpc, hcy, hr, h]
    · have hb : (r == 0#8) = false := by simpa using hr
      cases d <;> by_cases h : s.cellOf f = .pcl <;>
        simp [State.finishSkip, State.skipIf, hpc, hcy, hr, hb, h]

/-- The parameters after an instruction with a destination operand (rule R3). -/
theorem complete_cfg (s : State) (f : FileNum) (d : Dest) (v : Byte) {g : State → State}
    (hg : ∀ u, (g u).cfg = u.cfg) : (s.complete f d v g).cfg = s.cfg := by
  unfold State.complete
  cases s.pclTarget f d v <;> simp [State.finish, hg]

/-- The count of free values drawn, where the operand is not read (rule R70). -/
theorem complete_freeIx (s : State) (f : FileNum) (d : Dest) (v : Byte) {g : State → State}
    (hg : ∀ u, (g u).freeIx = u.freeIx) : (s.complete f d v g).freeIx = s.freeIx := by
  unfold State.complete
  cases s.pclTarget f d v <;> simp [State.finish, hg]

/-- `Z` at the end of an instruction that names it (rule R24). -/
theorem complete_flagZ (s : State) (f : FileNum) (d : Dest) (v : Byte) (x : Bool) :
    (s.complete f d v (·.setZ x)).flagZ = x := by
  unfold State.complete
  cases s.pclTarget f d v <;> simp [State.finish, State.flagZ]

/-- `C` at the end of a rotate (rule R25). -/
theorem complete_flagC (s : State) (f : FileNum) (d : Dest) (v : Byte) (x : Bool) :
    (s.complete f d v (·.setC x)).flagC = x := by
  unfold State.complete
  cases s.pclTarget f d v <;> simp [State.finish, State.flagC]

/-- Rule R23: the five flags stand at five distinct positions. -/
theorem Config.wf_distinct {c : Config} (h : c.wf = true) :
    [c.bitC, c.bitDc, c.bitZ, c.bitPd, c.bitTo].Nodup := by
  simp only [Config.wf, Bool.and_eq_true, decide_eq_true_eq] at h
  exact h.1.1.1

/-- The three flags after all three are written, at distinct positions (rules R23, R155, R156). -/
theorem flags_setCDcZ {s : State} (h : s.cfg.wf = true) (a : AluResult) :
    (s.setCDcZ a).flagC = a.c ∧ (s.setCDcZ a).flagDc = a.dc ∧ (s.setCDcZ a).flagZ = a.z := by
  have hd := Config.wf_distinct h
  simp only [List.nodup_cons, List.mem_cons, not_or] at hd
  obtain ⟨⟨h1, h2, -⟩, ⟨h3, -⟩, -⟩ := hd
  simp [State.flagC, State.flagDc, State.flagZ, h1, h2, h3]

/-- `C`, `DC` and `Z` at the end of an addition or subtraction (rules R140 to R143). -/
theorem complete_flags_setCDcZ {s : State} (h : s.cfg.wf = true) (f : FileNum) (d : Dest) (v : Byte)
    (a : AluResult) :
    let t := s.complete f d v (·.setCDcZ a)
    t.flagC = a.c ∧ t.flagDc = a.dc ∧ t.flagZ = a.z := by
  have hf := flags_setCDcZ (s := s.dest f d v) (by simpa using h) a
  unfold State.complete
  cases s.pclTarget f d v <;> exact hf

end Sys2Proof.Machine
end

