-- ==== Sys2Proof/Laws/PerInstr.lean ====
section
/-! SUPPORT. Statements about every instruction, one lemma per constructor. `RowOf`: the word an instruction
encodes to lies in its own row of spec/opcode_table.json, and every bit the row ignores is 0 (rules R99,
R100). -/
namespace Sys2Proof.Laws

/-- The columns `match`, `mask` of spec/opcode_table.json, and the bits the row ignores. -/
def RowOf.row : Instr → InstrWord × InstrWord × InstrWord
  | .movlw _ => (0x3000, 0x3C00, 0x0300)
  | .movwf _ => (0x0080, 0x3F80, 0x0000)
  | .movf _ _ => (0x0800, 0x3F00, 0x0000)
  | .clrw => (0x0100, 0x3F80, 0x007F)
  | .clrf _ => (0x0180, 0x3F80, 0x0000)
  | .swapf _ _ => (0x0E00, 0x3F00, 0x0000)
  | .addlw _ => (0x3E00, 0x3E00, 0x0100)
  | .addwf _ _ => (0x0700, 0x3F00, 0x0000)
  | .sublw _ => (0x3C00, 0x3E00, 0x0100)
  | .subwf _ _ => (0x0200, 0x3F00, 0x0000)
  | .andlw _ => (0x3900, 0x3F00, 0x0000)
  | .andwf _ _ => (0x0500, 0x3F00, 0x0000)
  | .iorlw _ => (0x3800, 0x3F00, 0x0000)
  | .iorwf _ _ => (0x0400, 0x3F00, 0x0000)
  | .xorlw _ => (0x3A00, 0x3F00, 0x0000)
  | .xorwf _ _ => (0x0600, 0x3F00, 0x0000)
  | .incf _ _ => (0x0A00, 0x3F00, 0x0000)
  | .decf _ _ => (0x0300, 0x3F00, 0x0000)
  | .rlf _ _ => (0x0D00, 0x3F00, 0x0000)
  | .rrf _ _ => (0x0C00, 0x3F00, 0x0000)
  | .comf _ _ => (0x0900, 0x3F00, 0x0000)
  | .bcf _ _ => (0x1000, 0x3C00, 0x0000)
  | .bsf _ _ => (0x1400, 0x3C00, 0x0000)
  | .btfsc _ _ => (0x1800, 0x3C00, 0x0000)
  | .btfss _ _ => (0x1C00, 0x3C00, 0x0000)
  | .incfsz _ _ => (0x0F00, 0x3F00, 0x0000)
  | .decfsz _ _ => (0x0B00, 0x3F00, 0x0000)
  | .goto _ => (0x2800, 0x3800, 0x0000)
  | .call _ => (0x2000, 0x3800, 0x0000)
  | .ret => (0x0008, 0x3FFF, 0x0000)
  | .retlw _ => (0x3400, 0x3C00, 0x0300)
  | .retfie => (0x0009, 0x3FFF, 0x0000)
  | .nop => (0x0000, 0x3F9F, 0x0060)
  | .clrwdt => (0x0064, 0x3FFF, 0x0000)
  | .sleep => (0x0063, 0x3FFF, 0x0000)

/-- The word of `i` matches `i`'s row and has its ignored bits 0. -/
def RowOf.Statement (i : Instr) : Prop :=
  (encode i &&& (RowOf.row i).2.1 == (RowOf.row i).1 && encode i &&& (RowOf.row i).2.2 == 0) = true

theorem RowOf.movlw (k : Byte) : RowOf.Statement (.movlw k) := by
  revert k; unfold RowOf.Statement; decide +kernel
theorem RowOf.movwf (f : FileNum) : RowOf.Statement (.movwf f) := by
  revert f; unfold RowOf.Statement; decide +kernel
theorem RowOf.movf (f : FileNum) (d : Dest) : RowOf.Statement (.movf f d) := by
  cases d <;> (revert f; unfold RowOf.Statement; decide +kernel)
theorem RowOf.clrw : RowOf.Statement (.clrw) := rfl
theorem RowOf.clrf (f : FileNum) : RowOf.Statement (.clrf f) := by
  revert f; unfold RowOf.Statement; decide +kernel
theorem RowOf.swapf (f : FileNum) (d : Dest) : RowOf.Statement (.swapf f d) := by
  cases d <;> (revert f; unfold RowOf.Statement; decide +kernel)
theorem RowOf.addlw (k : Byte) : RowOf.Statement (.addlw k) := by
  revert k; unfold RowOf.Statement; decide +kernel
theorem RowOf.addwf (f : FileNum) (d : Dest) : RowOf.Statement (.addwf f d) := by
  cases d <;> (revert f; unfold RowOf.Statement; decide +kernel)
theorem RowOf.sublw (k : Byte) : RowOf.Statement (.sublw k) := by
  revert k; unfold RowOf.Statement; decide +kernel
theorem RowOf.subwf (f : FileNum) (d : Dest) : RowOf.Statement (.subwf f d) := by
  cases d <;> (revert f; unfold RowOf.Statement; decide +kernel)
theorem RowOf.andlw (k : Byte) : RowOf.Statement (.andlw k) := by
  revert k; unfold RowOf.Statement; decide +kernel
theorem RowOf.andwf (f : FileNum) (d : Dest) : RowOf.Statement (.andwf f d) := by
  cases d <;> (revert f; unfold RowOf.Statement; decide +kernel)
theorem RowOf.iorlw (k : Byte) : RowOf.Statement (.iorlw k) := by
  revert k; unfold RowOf.Statement; decide +kernel
theorem RowOf.iorwf (f : FileNum) (d : Dest) : RowOf.Statement (.iorwf f d) := by
  cases d <;> (revert f; unfold RowOf.Statement; decide +kernel)
theorem RowOf.xorlw (k : Byte) : RowOf.Statement (.xorlw k) := by
  revert k; unfold RowOf.Statement; decide +kernel
theorem RowOf.xorwf (f : FileNum) (d : Dest) : RowOf.Statement (.xorwf f d) := by
  cases d <;> (revert f; unfold RowOf.Statement; decide +kernel)
theorem RowOf.incf (f : FileNum) (d : Dest) : RowOf.Statement (.incf f d) := by
  cases d <;> (revert f; unfold RowOf.Statement; decide +kernel)
theorem RowOf.decf (f : FileNum) (d : Dest) : RowOf.Statement (.decf f d) := by
  cases d <;> (revert f; unfold RowOf.Statement; decide +kernel)
theorem RowOf.rlf (f : FileNum) (d : Dest) : RowOf.Statement (.rlf f d) := by
  cases d <;> (revert f; unfold RowOf.Statement; decide +kernel)
theorem RowOf.rrf (f : FileNum) (d : Dest) : RowOf.Statement (.rrf f d) := by
  cases d <;> (revert f; unfold RowOf.Statement; decide +kernel)
theorem RowOf.comf (f : FileNum) (d : Dest) : RowOf.Statement (.comf f d) := by
  cases d <;> (revert f; unfold RowOf.Statement; decide +kernel)
theorem RowOf.bcf (f : FileNum) (b : BitNum) : RowOf.Statement (.bcf f b) := by
  revert f b; unfold RowOf.Statement; decide +kernel
theorem RowOf.bsf (f : FileNum) (b : BitNum) : RowOf.Statement (.bsf f b) := by
  revert f b; unfold RowOf.Statement; decide +kernel
theorem RowOf.btfsc (f : FileNum) (b : BitNum) : RowOf.Statement (.btfsc f b) := by
  revert f b; unfold RowOf.Statement; decide +kernel
theorem RowOf.btfss (f : FileNum) (b : BitNum) : RowOf.Statement (.btfss f b) := by
  revert f b; unfold RowOf.Statement; decide +kernel
theorem RowOf.incfsz (f : FileNum) (d : Dest) : RowOf.Statement (.incfsz f d) := by
  cases d <;> (revert f; unfold RowOf.Statement; decide +kernel)
theorem RowOf.decfsz (f : FileNum) (d : Dest) : RowOf.Statement (.decfsz f d) := by
  cases d <;> (revert f; unfold RowOf.Statement; decide +kernel)
theorem RowOf.goto (k : Target) : RowOf.Statement (.goto k) := by
  revert k; unfold RowOf.Statement; decide +kernel
theorem RowOf.call (k : Target) : RowOf.Statement (.call k) := by
  revert k; unfold RowOf.Statement; decide +kernel
theorem RowOf.ret : RowOf.Statement (.ret) := rfl
theorem RowOf.retlw (k : Byte) : RowOf.Statement (.retlw k) := by
  revert k; unfold RowOf.Statement; decide +kernel
theorem RowOf.retfie : RowOf.Statement (.retfie) := rfl
theorem RowOf.nop : RowOf.Statement (.nop) := rfl
theorem RowOf.clrwdt : RowOf.Statement (.clrwdt) := rfl
theorem RowOf.sleep : RowOf.Statement (.sleep) := rfl

end Sys2Proof.Laws
end

