-- ==== Sys2Proof/Laws/Step.lean ====
section
/-! SUPPORT. What a step can do: the boundary's action, the fetch, interrupt entry and the returns, each in one
lemma to cite in place of unfolding. -/
namespace Sys2Proof.Machine

/-- Everything a return can complete with (rules R197, R198, R199). -/
theorem State.popReturn_cases {s t : State} {effect : State → State} (h : s.popReturn effect = .next t) :
    ∃ a u, s.pop = some (a, u) ∧ t = effect (u.jump a) := by
  unfold State.popReturn at h
  split at h
  · next a u e => cases h; exact ⟨a, u, e, rfl⟩
  · cases h

/-- Everything CALL can complete with (rule R196). -/
theorem execCall_cases {s t : State} {k : Target} (h : execCall k s = .next t) :
    ∃ u, s.push (s.pc + 1) = some u ∧ t = u.jump (s.target k) := by
  unfold execCall at h
  split at h
  · next u e => cases h; exact ⟨u, e, rfl⟩
  · cases h

/-- Everything interrupt entry can complete with (rule R236). -/
theorem State.interruptEntry_cases {s t : State} (h : s.interruptEntry = .next t) :
    ∃ u, (s.setGie false).push s.pc = some u ∧ t = { u with pc := s.cfg.intVector } := by
  unfold State.interruptEntry at h
  split at h
  · next u e => cases h; exact ⟨u, e, rfl⟩
  · cases h

/-- What the fetch gives where the word at `pc` is known (rule R62). -/
theorem State.fetch_of_holdsAtPc {s : State} {w : InstrWord} (h : s.holdsAtPc w) : s.fetch = .word w := by
  unfold State.fetch
  rw [if_pos h.1, h.2]

/-- Everything the execution of the instruction at `pc` can complete with (rules R9, R62, R108). -/
theorem State.runInstruction_cases {s t : State} (h : s.runInstruction = .next t) :
    ∃ w i, s.holdsAtPc w ∧ decode w = .ok i ∧ exec i s = .next t := by
  unfold State.runInstruction at h
  split at h
  · cases h
  · cases h
  · next w e =>
    split at h
    · cases h
    · next i hi =>
      refine ⟨w, i, ?_, hi, h⟩
      unfold State.fetch at e
      split at e
      · next h1 =>
        split at e
        · next w' h2 => cases e; exact ⟨h1, h2⟩
        · cases e
      · cases e

theorem State.takeInput_holdsAtPc (s : State) (w : InstrWord) : s.takeInput.holdsAtPc w ↔ s.holdsAtPc w :=
  Iff.rfl

theorem State.interruptWake_holdsAtPc (s : State) (w : InstrWord) :
    s.interruptWake.holdsAtPc w ↔ s.holdsAtPc w := Iff.rfl

/-- The boundary brings the instruction at `pc` exactly where `executesNext` holds (rules R235, R236, R245). -/
theorem State.action_eq_execute (s : State) : s.action = .execute ↔ s.executesNext := by
  constructor
  · intro h
    unfold State.action at h
    split at h
    · cases h
    · next hr =>
      split at h
      · split at h <;> cases h
      · next hw =>
        split at h
        · split at h <;> cases h
        · next hm =>
          split at h
          · cases h
          · next hi =>
            refine ⟨hm, ⟨hr, ?_⟩, ?_⟩
            · cases h1 : s.cfg.wdtEnabled <;> simp_all
            · cases h1 : s.input.intReq <;> cases h2 : s.gie <;> simp_all
  · rintro ⟨hm, ⟨hr, hw⟩, hi⟩
    unfold State.action
    rw [hr, hm]
    rcases hw with hw | hw <;> rcases hi with hi | hi | hi <;> simp [hw, hi]

/-- The stack entries a reset leaves fill the whole stack (rule R40). -/
@[simp] theorem fitEntries_length (n : Nat) (l : List Pc) : (fitEntries n l).length = n := by
  induction n generalizing l with
  | zero => rfl
  | succ n ih => cases l <;> simp [fitEntries, ih]

end Sys2Proof.Machine
end

