-- ==== Sys2Proof/Tests/Slice0.lean ====
section
/-! SUPPORT. Tests: what the well-formedness checks refuse, words written out from the spec's encodings and what
they decode to, one-step vectors of 95_test_vectors.md (their ids stand in the comments), and for every
statement with hypotheses a state that meets them. -/
namespace Sys2Proof.Tests
open Sys2Proof Sys2Proof.Machine

/-! ### Well-formedness: each check refuses an ill-formed term -/

theorem test_wf_accepts_largest_operands :
    wellFormed .movf [127, 1] = true ∧ wellFormed .bcf [127, 7] = true ∧ wellFormed .movlw [255] = true ∧
    wellFormed .goto [2047] = true ∧ wellFormed .nop [] = true ∧ wellFormed .clrf [127] = true := by decide
theorem test_wf_refuses_f_128 : wellFormed .movf [128, 0] = false ∧ wellFormed .clrf [128] = false ∧
    wellFormed .bsf [128, 0] = false := by decide
theorem test_wf_refuses_d_2 : wellFormed .movf [0, 2] = false := by decide
theorem test_wf_refuses_b_8 : wellFormed .bcf [0, 8] = false := by decide
theorem test_wf_refuses_k_256 : wellFormed .movlw [256] = false := by decide
theorem test_wf_refuses_k11_2048 : wellFormed .goto [2048] = false := by decide
theorem test_wf_refuses_missing_d : wellFormed .addwf [12] = false := by decide
theorem test_wf_refuses_operand_of_nop : wellFormed .nop [0] = false := by decide
theorem test_config_wf_accepts_profile : profilePGK.wf = true := by decide
theorem test_config_wf_refuses_shared_flag : ({ profilePGK with bitZ := 0 } : Config).wf = false := by decide
theorem test_config_wf_refuses_missing_fsr :
    ({ profilePGK with map := mapPGK.filter fun r => r.cell != .fsr } : Config).wf = false := by decide +kernel
theorem test_config_wf_refuses_empty_stack : ({ profilePGK with stackDepth := 0 } : Config).wf = false := by
  decide
theorem test_config_wf_refuses_8193_words : ({ profilePGK with progWords := 8193 } : Config).wf = false := by
  decide

/-! ### Decoding: a word written out bit by bit from rule R99 for every row (section 2.7) -/

theorem test_decode_movlw : decode 0b11001111111111 = .ok (.movlw 0xFF) := by decide
theorem test_decode_movwf : decode 0b00000011111111 = .ok (.movwf 0x7F) := by decide
theorem test_decode_movf : decode 0b00100010000011 = .ok (.movf 0x03 .f) := by decide
theorem test_decode_clrw : decode 0b00000101111111 = .ok .clrw := by decide
theorem test_decode_clrf : decode 0b00000111111111 = .ok (.clrf 0x7F) := by decide
theorem test_decode_swapf : decode 0b00111000000011 = .ok (.swapf 0x03 .w) := by decide
theorem test_decode_addlw : decode 0b11111111111111 = .ok (.addlw 0xFF) := by decide
theorem test_decode_addwf : decode 0b00011110001100 = .ok (.addwf 0x0C .f) := by decide
theorem test_decode_sublw : decode 0b11110111111111 = .ok (.sublw 0xFF) := by decide
theorem test_decode_subwf : decode 0b00001011111111 = .ok (.subwf 0x7F .f) := by decide
theorem test_decode_andlw : decode 0b11100111111111 = .ok (.andlw 0xFF) := by decide
theorem test_decode_andwf : decode 0b00010110000011 = .ok (.andwf 0x03 .f) := by decide
theorem test_decode_iorlw : decode 0b11100000000000 = .ok (.iorlw 0x00) := by decide
theorem test_decode_iorwf : decode 0b00010000000011 = .ok (.iorwf 0x03 .w) := by decide
theorem test_decode_xorlw : decode 0b11101000000000 = .ok (.xorlw 0x00) := by decide
theorem test_decode_xorwf : decode 0b00011010001100 = .ok (.xorwf 0x0C .f) := by decide
theorem test_decode_incf : decode 0b00101010000100 = .ok (.incf 0x04 .f) := by decide
theorem test_decode_decf : decode 0b00001100000000 = .ok (.decf 0x00 .w) := by decide
theorem test_decode_rlf : decode 0b00110110001100 = .ok (.rlf 0x0C .f) := by decide
theorem test_decode_rrf : decode 0b00110000001100 = .ok (.rrf 0x0C .w) := by decide
theorem test_decode_comf : decode 0b00100111111111 = .ok (.comf 0x7F .f) := by decide
theorem test_decode_bcf : decode 0b01001010000011 = .ok (.bcf 0x03 5) := by decide
theorem test_decode_bsf : decode 0b01011111111111 = .ok (.bsf 0x7F 7) := by decide
theorem test_decode_btfsc : decode 0b01100100000011 = .ok (.btfsc 0x03 2) := by decide
theorem test_decode_btfss : decode 0b01110100000011 = .ok (.btfss 0x03 2) := by decide
theorem test_decode_incfsz : decode 0b00111110001100 = .ok (.incfsz 0x0C .f) := by decide
theorem test_decode_decfsz : decode 0b00101110001100 = .ok (.decfsz 0x0C .f) := by decide
theorem test_decode_goto : decode 0b10111111111111 = .ok (.goto 0x7FF) := by decide
theorem test_decode_call : decode 0b10011111111111 = .ok (.call 0x7FF) := by decide
theorem test_decode_ret : decode 0b00000000001000 = .ok .ret := by decide
theorem test_decode_retlw : decode 0b11011101000011 = .ok (.retlw 0x43) := by decide
theorem test_decode_retfie : decode 0b00000000001001 = .ok .retfie := by decide
theorem test_decode_nop : decode 0b00000001100000 = .ok .nop := by decide
theorem test_decode_clrwdt : decode 0b00000001100100 = .ok .clrwdt := by decide
theorem test_decode_sleep : decode 0b00000001100011 = .ok .sleep := by decide
theorem test_decode_unassigned_low : [0x0001, 0x0007, 0x000A, 0x0062, 0x0065, 0x0067, 0x007F].all
    (fun n => decodeTableWord 16 n == none) = true := by decide
theorem test_decode_unassigned_high : decodeTableWord 16 0x3B00 = none ∧ decodeTableWord 16 0x3BFF = none := by
  decide
theorem test_decode_no_word : decodeTableWord 16 0x4000 = none ∧ decodeTableWord 16 0x3008 = some (.movlw 8) := by
  decide
theorem test_encode_canonical : encode (.retlw 0x43) = 0x3443 ∧ encode .clrw = 0x0100 ∧
    encode (.btfsc 0x0C 7) = 0x1B8C ∧ encode (.swapf 0x03 .w) = 0x0E03 ∧ encode (.goto 0x7FF) = 0x2FFF := by decide

/-! ### Assembler text (rules R102 to R106) -/

theorem test_asm_label_and_comment :
    assemble [] "loop DECFSZ 0x0C, 1 ; count".toList = some (.decfsz 0x0C .f) := by decide
theorem test_asm_symbol : assemble [("OPTION_REG".toList, 0x81)] "MOVWF OPTION_REG".toList = some (.movwf 0x01) := by
  decide
theorem test_asm_long_label : assemble [("FAR".toList, 0x0810)] " GOTO FAR".toList = some (.goto 0x010) := by decide
theorem test_asm_refuses_range : assemble [] "BCF 0x03, 8".toList = none ∧ assemble [] "GOTO 2048".toList = none ∧
    assemble [] "SWAP 0x0C, 1".toList = none := by decide

/-! ### One step: the vectors of 95_test_vectors.md -/

/-- The vectors' machine: P-GK with `STACK_WRAP` false, `pc` = 0x0100. -/
def at100 : State := { State.reset with cfg := { profilePGK with stackWrap := false }, pc := 0x0100 }

/-- `at100` with `W`, `STATUS`, `FSR` and the cell at 0x0C as given. -/
def regs (w status fsr cell : Byte) : State :=
  { at100 with w := w, status := status, fsr := fsr, ram := Memory.write [] 0 cell }

/-- The next state of the word `w` executed at `s`. -/
def go (s : State) (w : Nat) : Option State := nextOf (step (s.withFetchWord 16 w))

/-- What a vector looks at: `W`, `STATUS`, `FSR`, the cell at 0x0C, `pc`, `cycles`. -/
def seen (s : State) (w : Nat) : Option (Byte × Byte × Byte × Byte × Pc × Nat) :=
  (go s w).map fun t => (t.w, t.status, t.fsr, Memory.read t.ram 0, t.pc, t.cycles)

/-- The cell number `n` after the word `w`. -/
def cellAfter (s : State) (w n : Nat) : Option Byte := (go s w).map fun t => Memory.read t.ram n

theorem test_movlw_writes_no_flag : seen (regs 0xFF 0x1B 0x00 0x00) 0x3000 =
    some (0x00, 0x1B, 0x00, 0x00, 0x0101, 1) := by decide -- T1
theorem test_movwf_keeps_to_pd_of_status : seen (regs 0xFF 0x00 0x00 0x00) 0x0083 =
    some (0xFF, 0xE7, 0x00, 0x00, 0x0101, 1) := by decide -- T4
theorem test_movf_reads_status_then_writes_z : seen (regs 0x00 0x1C 0x00 0x00) 0x0803 =
    some (0x1C, 0x18, 0x00, 0x00, 0x0101, 1) := by decide -- T10
theorem test_movf_in_place_tests_cell : seen (regs 0x11 0x1B 0x00 0x00) 0x088C =
    some (0x11, 0x1F, 0x00, 0x00, 0x0101, 1) := by decide -- T8
theorem test_clrw_sets_z : seen (regs 0x55 0x18 0x00 0x00) 0x0100 =
    some (0x00, 0x1C, 0x00, 0x00, 0x0101, 1) := by decide -- S-A4
theorem test_clrf_status : seen (regs 0x00 0xC2 0x00 0x00) 0x0183 =
    some (0x00, 0x04, 0x00, 0x00, 0x0101, 1) := by decide -- S-A5-1
theorem test_clrf_cell : seen (regs 0x01 0x1B 0x00 0xFF) 0x018C =
    some (0x01, 0x1F, 0x00, 0x00, 0x0101, 1) := by decide -- T18
theorem test_swapf_status_to_w : seen (regs 0x07 0x1D 0x00 0x00) 0x0E03 =
    some (0xD1, 0x1D, 0x00, 0x00, 0x0101, 1) := by decide -- T24
theorem test_swapf_in_place : seen (regs 0x07 0x18 0x00 0xF3) 0x0E8C =
    some (0x07, 0x18, 0x00, 0x3F, 0x0101, 1) := by decide -- S-A6-2
theorem test_addlw_wraps : seen (regs 0xFF 0x18 0x00 0x00) 0x3E01 =
    some (0x00, 0x1F, 0x00, 0x00, 0x0101, 1) := by decide -- A1
theorem test_addlw_carry_without_digit_carry : seen (regs 0x80 0x18 0x00 0x00) 0x3E80 =
    some (0x00, 0x1D, 0x00, 0x00, 0x0101, 1) := by decide -- A3
theorem test_addwf_status_flags_win : seen (regs 0x01 0x18 0x00 0x00) 0x0783 =
    some (0x01, 0x18, 0x00, 0x00, 0x0101, 1) := by decide -- A8
theorem test_addwf_to_cell : seen (regs 0x20 0x18 0x00 0xF0) 0x078C =
    some (0x20, 0x19, 0x00, 0x10, 0x0101, 1) := by decide -- A6
theorem test_sublw_literal_is_minuend : seen (regs 0x01 0x18 0x00 0x00) 0x3C10 =
    some (0x0F, 0x19, 0x00, 0x00, 0x0101, 1) := by decide -- A12
theorem test_sublw_negative : seen (regs 0x04 0x1F 0x00 0x00) 0x3C03 =
    some (0xFF, 0x18, 0x00, 0x00, 0x0101, 1) := by decide -- S-A9-1c
theorem test_subwf_register_is_minuend : seen (regs 0x01 0x18 0x00 0x10) 0x020C =
    some (0x0F, 0x19, 0x00, 0x10, 0x0101, 1) := by decide -- A15
theorem test_subwf_negative : seen (regs 0x02 0x1F 0x00 0x01) 0x028C =
    some (0x02, 0x18, 0x00, 0xFF, 0x0101, 1) := by decide -- S-A10-1c
theorem test_andlw_sets_z : seen (regs 0xF0 0x18 0x00 0x00) 0x390F =
    some (0x00, 0x1C, 0x00, 0x00, 0x0101, 1) := by decide -- A18
theorem test_andwf_fsr : seen (regs 0x17 0x18 0xC2 0x00) 0x0584 =
    some (0x17, 0x18, 0x02, 0x00, 0x0101, 1) := by decide -- S-A12-1
theorem test_andwf_keeps_c_dc : seen (regs 0x0F 0x1F 0x00 0x3C) 0x058C =
    some (0x0F, 0x1B, 0x00, 0x0C, 0x0101, 1) := by decide -- A20
theorem test_iorlw : seen (regs 0x9A 0x1C 0x00 0x00) 0x3835 =
    some (0xBF, 0x18, 0x00, 0x00, 0x0101, 1) := by decide -- S-A13-1
theorem test_iorwf : seen (regs 0x91 0x1C 0x00 0x13) 0x048C =
    some (0x91, 0x18, 0x00, 0x93, 0x0101, 1) := by decide -- S-A14-2
theorem test_xorlw : seen (regs 0xAF 0x1C 0x00 0x00) 0x3A37 =
    some (0x98, 0x18, 0x00, 0x00, 0x0101, 1) := by decide -- S-A15-2
theorem test_xorwf_to_w : seen (regs 0xB5 0x1C 0x00 0xAF) 0x060C =
    some (0x1A, 0x18, 0x00, 0xAF, 0x0101, 1) := by decide -- S-A16-2
theorem test_incf_wrap_keeps_c : seen (regs 0x00 0x18 0x00 0xFF) 0x0A8C =
    some (0x00, 0x1C, 0x00, 0x00, 0x0101, 1) := by decide -- A31
theorem test_incf_fsr_wraps : seen (regs 0x00 0x18 0xFF 0x00) 0x0A84 =
    some (0x00, 0x1C, 0x00, 0x00, 0x0101, 1) := by decide -- M13
theorem test_decf_wrap_keeps_c : seen (regs 0x00 0x1F 0x00 0x00) 0x038C =
    some (0x00, 0x1B, 0x00, 0xFF, 0x0101, 1) := by decide -- A33
theorem test_rlf_old_c_enters_bit_0 : seen (regs 0x00 0x19 0x00 0x01) 0x0D8C =
    some (0x00, 0x18, 0x00, 0x03, 0x0101, 1) := by decide -- A36
theorem test_rlf_to_w : seen (regs 0x00 0x18 0x00 0xE6) 0x0D0C =
    some (0xCC, 0x19, 0x00, 0xE6, 0x0101, 1) := by decide -- S-A19-1
theorem test_rrf_old_c_enters_bit_7 : seen (regs 0x00 0x1D 0x00 0x00) 0x0C8C =
    some (0x00, 0x1C, 0x00, 0x80, 0x0101, 1) := by decide -- A40
theorem test_rrf_bit_0_to_c : seen (regs 0x00 0x18 0x00 0x01) 0x0C8C =
    some (0x00, 0x19, 0x00, 0x00, 0x0101, 1) := by decide -- A39
theorem test_comf : seen (regs 0x00 0x1C 0x00 0x13) 0x090C =
    some (0xEC, 0x18, 0x00, 0x13, 0x0101, 1) := by decide -- S-A21-1
theorem test_bcf : seen (regs 0x00 0x18 0x00 0xC7) 0x138C =
    some (0x00, 0x18, 0x00, 0x47, 0x0101, 1) := by decide -- S-A22-1
theorem test_bcf_pd_protected : seen (regs 0x00 0x18 0x00 0x00) 0x1183 =
    some (0x00, 0x18, 0x00, 0x00, 0x0101, 1) := by decide -- B9
theorem test_bsf : seen (regs 0x00 0x18 0x00 0x07) 0x178C =
    some (0x00, 0x18, 0x00, 0x87, 0x0101, 1) := by decide -- S-A23-1
theorem test_bsf_through_indf : seen (regs 0x00 0x18 0x0C 0x10) 0x1400 =
    some (0x00, 0x18, 0x0C, 0x11, 0x0101, 1) := by decide -- B14
theorem test_btfsc_no_skip : seen (regs 0x00 0x18 0x00 0x80) 0x1B8C =
    some (0x00, 0x18, 0x00, 0x80, 0x0101, 1) := by decide -- K1
theorem test_btfsc_skip : seen (regs 0x00 0x18 0x00 0x7F) 0x1B8C =
    some (0x00, 0x18, 0x00, 0x7F, 0x0102, 2) := by decide -- K2
theorem test_btfss_skip : seen (regs 0x00 0x1C 0x00 0x00) 0x1D03 =
    some (0x00, 0x1C, 0x00, 0x00, 0x0102, 2) := by decide -- K3
theorem test_btfss_no_skip : seen (regs 0x00 0x1C 0x00 0x00) 0x1C03 =
    some (0x00, 0x1C, 0x00, 0x00, 0x0101, 1) := by decide -- K4
theorem test_incfsz_skip : seen (regs 0x00 0x18 0x00 0xFF) 0x0F8C =
    some (0x00, 0x18, 0x00, 0x00, 0x0102, 2) := by decide -- K6
theorem test_incfsz_to_w_skips : seen (regs 0x55 0x18 0x00 0xFF) 0x0F0C =
    some (0x00, 0x18, 0x00, 0xFF, 0x0102, 2) := by decide -- K7
theorem test_decfsz_skip : seen (regs 0x00 0x18 0x00 0x01) 0x0B8C =
    some (0x00, 0x18, 0x00, 0x00, 0x0102, 2) := by decide -- K9
theorem test_decfsz_no_skip_below_zero : seen (regs 0x00 0x18 0x00 0x00) 0x0B8C =
    some (0x00, 0x18, 0x00, 0xFF, 0x0101, 1) := by decide -- K10
theorem test_goto_self : seen (regs 0x00 0x18 0x00 0x00) 0x2900 =
    some (0x00, 0x18, 0x00, 0x00, 0x0100, 2) := by decide -- K16
theorem test_nop : seen (regs 0x12 0x1D 0x00 0x00) 0x0060 =
    some (0x12, 0x1D, 0x00, 0x00, 0x0101, 1) := by decide -- Y2
theorem test_movwf_through_indf : cellAfter (regs 0x17 0x18 0xC2 0) 0x0080 0x36 = some 0x17 := by decide -- S-A2-2
theorem test_comf_through_indf :
    cellAfter { regs 0 0x18 0xC2 0 with ram := [(0x36, 0xAA)] } 0x0980 0x36 = some 0x55 := by decide -- S-A21-2
theorem test_movf_second_bank_is_same_cell : -- M3, first bank bit set
    seen (regs 0 0x3C 0 0x5A) 0x080C = some (0x5A, 0x38, 0, 0x5A, 0x0101, 1) := by decide
theorem test_movwf_option_reg_in_bank_1 : -- M1
    (go { regs 0x40 0x38 0 0 with optionReg := 0x20 } 0x0081).map (·.optionReg) = some 0x40 := by decide
theorem test_movwf_device_register_is_recorded : -- M2
    (go (regs 0x40 0x18 0 0) 0x0081).map (·.outputs) = some [(0, 0x40)] := by decide
theorem test_movwf_pclath_keeps_five_bits : -- T6
    (go (regs 0xFF 0x18 0 0) 0x008A).map (·.pclath) = some 0x1F := by decide
theorem test_movwf_pcl_jumps : -- rule R48
    (go { regs 0x10 0x18 0 0 with pclath := 0x03 } 0x0082).map (fun t => (t.pc, t.cycles)) = some (0x310, 2) := by
  decide
theorem test_movf_pcl_reads_next_pc : (go (regs 0 0x18 0 0) 0x0802).map (·.w) = some 0x01 := by decide -- rule R48
theorem test_skip_wraps_at_top : -- K5
    (nextOf (exec (.btfsc 0x0C 0) { at100 with pc := 0x1FFF })).map (·.pc) = some 0x0001 := by decide
theorem test_goto_page_of_pclath : -- K13
    (go { at100 with pclath := 0x18 } 0x2FFF).map (·.pc) = some 0x1FFF := by decide
theorem test_call_pushes_and_takes_page : -- K17
    (go { at100 with pclath := 0x08 } 0x2123).map (fun t => (t.pc, t.stack, t.cycles)) =
      some (0x0923, [0x0101], 2) := by decide
theorem test_call_full_stack_refused : -- K19
    refusalOf (step (State.withFetchWord { at100 with stack := [8, 7, 6, 5, 4, 3, 2, 1], stale := [] } 16 0x2200)) =
      some .stackOverflow := by decide
theorem test_return_pops_all_bits : -- K21
    (go { at100 with stack := [0x1234, 0x0055] } 0x0008).map (fun t => (t.pc, t.stack, t.cycles)) =
      some (0x1234, [0x0055], 2) := by decide
theorem test_return_empty_stack_refused : -- K22
    refusalOf (step (at100.withFetchWord 16 0x0008)) = some .stackUnderflow := by decide
theorem test_retlw_keeps_z : -- K23
    (go { regs 0xFF 0x18 0 0 with stack := [0x0101] } 0x3400).map (fun t => (t.w, t.status, t.pc, t.stack)) =
      some (0, 0x18, 0x0101, []) := by decide
theorem test_retfie_sets_gie_alone : -- K25
    (go { at100 with stack := [0x0101], gieReg := 0x20 } 0x0009).map (fun t => (t.gieReg, t.pc, t.stack)) =
      some (0xA0, 0x0101, []) := by decide
theorem test_clrwdt : -- Y3
    (go { at100 with status := 0x00, wdt := 5, wdtPrescaler := 3 } 0x0064).map
      (fun t => (t.status, t.wdt, t.wdtPrescaler, t.pc)) = some (0x18, 0, 0, 0x0101) := by decide
theorem test_sleep : -- Y5
    (go { at100 with status := 0x08, wdt := 9, wdtPrescaler := 2 } 0x0063).map
      (fun t => (t.status, t.wdt, t.wdtPrescaler, t.pc, t.mode)) = some (0x10, 0, 0, 0x0101, .sleep) := by decide
theorem test_fetch_out_of_range : -- K28
    refusalOf (step { at100 with pc := 0x0400 }) = some .fetchOutOfRange := by decide

theorem test_fetch_of_unloaded_word_refused : -- rules R10, R62
    refusalOf (step State.reset) = some .noInstruction := by decide
theorem test_bank_bit_from_gie_register : -- rule R3: BankBits is any function of the state
    let s : State := { regs 0x40 0x18 0 0 with gieReg := 0x40, cfg := { profilePGK with bank := .bitOf .gieReg 6 } }
    (go s 0x0081).map (·.optionReg) = some 0x40 := by decide
theorem test_movwf_indf_with_fsr_at_itself : -- rules R65, R66; log entry 26
    (go (regs 0x20 0x18 0x84 0) 0x0080).map (·.fsr) = some 0x20 := by decide

/-! ### Events at a boundary (section 2.8) -/

/-- The environment asks for an interrupt at the next two boundaries. -/
def interrupting (s : State) : State := { s with inputs := [{ intReq := true }, { intReq := true }] }

/-- The watchdog times out at the next boundary. -/
def timingOut (s : State) : State := { s with inputs := [{ wdtTimeout := true }] }

/-- `s` with the word `w` at its `pc`. -/
def holding (s : State) (w : InstrWord) : State := { s with prog := [(s.pc.toNat, w)] }

/-- Asleep at 0x0051 with a NOP there. -/
def asleep : State := holding { at100 with pc := 0x0051, status := 0x10, mode := .sleep } 0x0000

theorem test_interrupt_entry : -- E1
    (nextOf (step (interrupting { at100 with pc := 0x0123, gieReg := 0x80, pclath := 0x08, w := 0x55 }))).map
      (fun t => (t.pc, t.gieReg, t.stack, t.pclath, t.w)) = some (0x0004, 0x00, [0x0123], 0x08, 0x55) := by decide
theorem test_interrupt_masked : -- E2
    (nextOf (step (holding (interrupting at100) 0x0000))).map (·.pc) = some 0x0101 := by decide
theorem test_interrupt_full_stack_refused : -- E3
    refusalOf (step (interrupting { at100 with gieReg := 0x80, stack := [8, 7, 6, 5, 4, 3, 2, 1], stale := [] })) =
      some .stackOverflow := by decide
theorem test_power_on_reset : -- E6
    (nextOf (step { at100 with status := 0xE7, pclath := 0x1F, gieReg := 0xFF, inputs := [{ reset := some .powerOn }] })).map
      (fun t => (t.pc, t.pclath, t.gieReg, t.status)) = some (0, 0, 0, 0x18) := by decide
theorem test_external_reset_asleep : -- rule R261
    (nextOf (step { asleep with w := 0x55, inputs := [{ reset := some .external }] })).map
      (fun t => (t.pc, t.status, t.w, t.mode)) = some (0, 0x10, 0x55, .run) := by decide
theorem test_watchdog_reset : -- E7
    (nextOf (step (timingOut { regs 0x55 0x18 0 0x66 with stack := [0x0010] }))).map
      (fun t => (t.pc, t.status, t.w, Memory.read t.ram 0, t.stack)) = some (0, 0x08, 0x55, 0x66, []) := by decide
theorem test_watchdog_wake : -- E8
    (nextOf (step (timingOut asleep))).map (fun t => (t.pc, t.status, t.mode)) = some (0x0051, 0x00, .run) := by decide
theorem test_interrupt_wake_then_one_instruction_then_entry : -- E10
    ((nextOf (step (interrupting { asleep with gieReg := 0x80 }))).bind fun t =>
      (nextOf (step t)).bind fun u => (nextOf (step { u with inputs := [{ intReq := true }] })).map fun v =>
        (t.pc, t.mode, u.pc, v.pc, v.stack)) = some (0x0051, .run, 0x0052, 0x0004, [0x0052]) := by decide

/-! ### Witnesses: for every statement with hypotheses a state and operands that meet them together -/

/-- `holding` at 0x0100. -/
def at100With (w : InstrWord) : State := holding at100 w

/-- A machine whose watchdog is disabled. -/
def noWatchdog : State := { State.reset with cfg := { profilePGK with wdtEnabled := false } }

theorem witness_UnassignedWordsAreRefused_low :
    (at100With 0x0001).executesNext ∧ (at100With 0x0001).holdsAtPc 0x0001 ∧ decode 0x0001 = .error .unassigned ∧
    decode 0x007F = .error .unassigned := by
  unfold State.executesNext State.undisturbed State.holdsAtPc; decide
theorem witness_UnassignedWordsAreRefused_high :
    (at100With 0x3BFF).executesNext ∧ (at100With 0x3BFF).holdsAtPc 0x3BFF ∧ decode 0x3BFF = .error .unassigned ∧
    decode 0x3B00 = .error .unassigned := by
  unfold State.executesNext State.undisturbed State.holdsAtPc; decide
theorem witness_DecodeIgnoresExactlyTheIgnoredBits : decode 0x33FF = .ok (.movlw 0xFF) ∧
    (0x33FF : InstrWord) &&& ~~~ ignoredBits (.movlw 0xFF) = encode (.movlw 0xFF) ∧
    decode 0x0060 = .ok .nop ∧ (0x0060 : InstrWord) &&& ~~~ ignoredBits .nop = encode .nop := by decide
theorem witness_AssemblerAcceptsExactlyOperandsInRange :
    instrOf .movf [127, 1] = some (.movf 0x7F .f) ∧ wellFormed .movf [128, 0] = false := by decide
theorem witness_StepRunsDecodedInstruction :
    (at100With 0x0000).executesNext ∧ (at100With 0x0000).holdsAtPc 0x0000 ∧ decode 0x0000 = .ok .nop ∧
    (at100With 0x0000).input.wdtCounters = none := by
  unfold State.executesNext State.undisturbed State.holdsAtPc; decide
theorem witness_StepRunsDecodedInstruction_while_masked :
    (interrupting (at100With 0x3FFF)).executesNext ∧ (interrupting (at100With 0x3FFF)).holdsAtPc 0x3FFF ∧
    decode 0x3FFF = .ok (.addlw 0xFF) := by
  unfold State.executesNext State.undisturbed State.holdsAtPc; decide
theorem witness_StepRunsDecodedInstruction_watchdog_disabled :
    (holding noWatchdog 0x0063).executesNext ∧ (holding noWatchdog 0x0063).holdsAtPc 0x0063 ∧
    decode 0x0063 = .ok .sleep ∧ (holding noWatchdog 0x0063).cfg.wdtEnabled = false := by
  unfold State.executesNext State.undisturbed State.holdsAtPc; decide
theorem witness_FetchOutsideProgramStops_refused :
    let s : State := { at100 with pc := 0x0400 }
    s.executesNext ∧ s.cfg.fetchWraps = false ∧ s.cfg.progWords ≤ s.pc.toNat := by
  unfold State.executesNext State.undisturbed; decide
theorem witness_FetchOutsideProgramStops_wraps :
    let s : State := { at100 with pc := 0x0400, cfg := { profilePGK with fetchWraps := true } }
    s.executesNext ∧ s.cfg.fetchWraps = true ∧ 0 < s.cfg.progWords := by
  unfold State.executesNext State.undisturbed; decide
theorem witness_FetchOutsideProgramStops_noInstruction :
    let s : State := { at100 with pc := 0x03FF }
    s.executesNext ∧ s.fetchAddr < s.cfg.progWords ∧ ProgMem.read s.prog s.fetchAddr = none := by
  unfold State.executesNext State.undisturbed; decide
theorem witness_EffectiveAddressIsDirectOrIndirect_direct :
    at100.cfg.resolve (at100.directAddr 0x0C) ≠ .indf ∧ at100.cfg.resolve (at100.directAddr 0x7F) ≠ .indf := by decide
theorem witness_EffectiveAddressIsDirectOrIndirect_self :
    at100.cfg.resolve (at100.directAddr 0x00) = .indf ∧ at100.cfg.resolve at100.fsr = .indf := by decide
theorem witness_EffectiveAddressIsDirectOrIndirect_fsr :
    let s : State := { at100 with fsr := 0x84 }
    s.cfg.resolve (s.directAddr 0x00) = .indf ∧ s.cfg.resolve s.fsr = .fsr := by decide
theorem witness_EffectiveAddressIsDirectOrIndirect_indirect :
    let s : State := { at100 with fsr := 0xC2 }
    s.cfg.resolve (s.directAddr 0x00) = .indf ∧ s.cfg.resolve s.fsr ≠ .fsr ∧ s.cfg.resolve s.fsr ≠ .indf := by decide
theorem witness_MemReadAfterMemWrite_other : at100.cfg.resolve 0x0C ≠ at100.cfg.resolve 0x4F := by decide
theorem witness_MemReadAfterMemWrite_gpr :
    at100.cfg.resolve 0x0C = at100.cfg.resolve 0x8C ∧ at100.cfg.resolve 0x0C = .gpr 0 ∧
    at100.cfg.resolve 0x4F = at100.cfg.resolve 0xCF ∧ at100.cfg.resolve 0x4F = .gpr 67 := by decide
theorem witness_MemReadAfterMemWrite_storage :
    at100.cfg.resolve 0x04 = at100.cfg.resolve 0x84 ∧ at100.cfg.resolve 0x04 = .fsr ∧
    at100.cfg.resolve 0x81 = .optionReg ∧
    at100.cfg.resolve 0x0B = at100.cfg.resolve 0x8B ∧ at100.cfg.resolve 0x0B = .gieReg := by decide
theorem witness_MemReadAfterMemWrite_pclath :
    at100.cfg.resolve 0x0A = at100.cfg.resolve 0x8A ∧ at100.cfg.resolve 0x0A = .pclath := by decide
theorem witness_MemReadAfterMemWrite_status :
    at100.cfg.resolve 0x03 = at100.cfg.resolve 0x83 ∧ at100.cfg.resolve 0x03 = .status := by decide
theorem witness_MemReadAfterMemWrite_unimplemented :
    at100.cfg.resolve 0x07 = at100.cfg.resolve 0xFF ∧ at100.cfg.resolve 0x07 = .unimplemented := by decide
theorem witness_ProfileMapsRegisters : 0x0C ≤ (0x0C : DataAddr).toNat ∧ (0x0C : DataAddr).toNat ≤ 0x4F ∧
    0x0C ≤ (0x4F : DataAddr).toNat ∧ (0x4F : DataAddr).toNat ≤ 0x4F := by decide
theorem witness_ClrfClearsRegister : at100.cellOf 0x03 = .status := by decide
theorem witness_AddlwAddsLiteral : (regs 0xFF 0x18 0 0).cfg.wf = true := by decide
theorem witness_AddwfAddsRegister : (regs 0xFF 0x18 0 0xFF).cfg.wf = true := by decide
theorem witness_SublwSubtractsFromLiteral : (regs 0x01 0x18 0 0).cfg.wf = true := by decide
theorem witness_SubwfSubtractsFromRegister : (regs 0x01 0x18 0 0x00).cfg.wf = true := by decide
theorem witness_RrfAfterRlfRestores_status :
    (regs 0 0x19 0 0x80).cellOf 0x0C = .gpr 0 ∧
    ∃ p, p ≠ (regs 0 0x19 0 0x80).cfg.bitC ∧ (regs 0 0x19 0 0x80).cfg.bank = .statusBit p := by decide
theorem witness_RrfAfterRlfRestores_fixed :
    let s : State := { regs 0 0x19 0 0x80 with cfg := { profilePGK with bank := .fixed false } }
    s.cellOf 0x0C = .gpr 0 ∧ ∃ b, s.cfg.bank = .fixed b := by decide
theorem witness_RrfAfterRlfRestores_same :
    let s : State := { regs 0 0x19 0 0x80 with cfg := { profilePGK with bank := .bitOf .gieReg 6 } }
    s.cellOf 0x0C = .gpr 0 ∧ ∀ t, exec (.rlf 0x0C .f) s = .next t → t.cellOf 0x0C = .gpr 0 := by
  refine ⟨by decide, fun t h => ?_⟩
  simp only [exec, execRlf, Host.Outcome.next.injEq] at h
  subst h
  decide
theorem witness_BitTestsSkip_clear :
    (regs 0 0x18 0 0x7F).cellOf 0x0C = .gpr 0 ∧ ((regs 0 0x18 0 0x7F).file 0x0C).toNat / 2 ^ (7 : BitNum).toNat % 2 = 0 := by
  decide
theorem witness_BitTestsSkip_set :
    (regs 0 0x18 0 0x80).cellOf 0x0C = .gpr 0 ∧ ((regs 0 0x18 0 0x80).file 0x0C).toNat / 2 ^ (7 : BitNum).toNat % 2 = 1 := by
  decide
theorem witness_CallPushesReturnAddress_room : at100.stack.length < at100.cfg.stackDepth := by decide
theorem witness_CallPushesReturnAddress_refused :
    let s : State := { at100 with stack := [8, 7, 6, 5, 4, 3, 2, 1], stale := [] }
    s.cfg.stackDepth ≤ s.stack.length ∧ s.cfg.stackWrap = false := by decide
theorem witness_CallPushesReturnAddress_wraps :
    let s : State := { State.reset with stack := [8, 7, 6, 5, 4, 3, 2, 1], stale := [] }
    s.stack.length = s.cfg.stackDepth ∧ 0 < s.cfg.stackDepth ∧ s.cfg.stackWrap = true := by decide
theorem witness_ReturnAfterCallComesBack :
    let s : State := { at100 with stack := [7, 6, 5, 4, 3, 2, 1], stale := [0] }
    s.stack.length < s.cfg.stackDepth := by decide
theorem witness_ReturnsPopTheStack_entry : ({ at100 with stack := [0x1FFF] } : State).stack = 0x1FFF :: [] := rfl
theorem witness_ReturnsPopTheStack_empty : at100.stack = [] ∧ at100.cfg.stackWrap = false := by decide
theorem witness_EmptyStackPopsCircularly :
    State.reset.stack = [] ∧ State.reset.cfg.stackWrap = true ∧ State.reset.stale = 0 :: [0, 0, 0, 0, 0, 0, 0] := by decide
theorem witness_SleepStopsTheCore : asleep.cfg.wf = true := by decide
theorem witness_InterruptEntryPushesPc_room :
    let s := interrupting { at100 with gieReg := 0x80 }
    s.mode = .run ∧ s.undisturbed ∧ s.intHoldoff = false ∧ s.input.intReq = true ∧ s.gie = true ∧
    s.stack.length < s.cfg.stackDepth := by
  unfold State.undisturbed; decide
theorem witness_InterruptEntryPushesPc_wraps :
    let s := interrupting { State.reset with gieReg := 0x80, stack := [8, 7, 6, 5, 4, 3, 2, 1], stale := [] }
    s.mode = .run ∧ s.undisturbed ∧ s.intHoldoff = false ∧ s.input.intReq = true ∧ s.gie = true ∧
    s.stack.length = s.cfg.stackDepth ∧ 0 < s.cfg.stackDepth ∧ s.cfg.stackWrap = true := by
  unfold State.undisturbed; decide
theorem witness_InterruptEntryPushesPc_refused :
    let s := interrupting { at100 with gieReg := 0x80, stack := [8, 7, 6, 5, 4, 3, 2, 1], stale := [] }
    s.mode = .run ∧ s.undisturbed ∧ s.intHoldoff = false ∧ s.input.intReq = true ∧ s.gie = true ∧
    s.cfg.stackDepth ≤ s.stack.length ∧ s.cfg.stackWrap = false := by
  unfold State.undisturbed; decide
theorem witness_InterruptEntryPushesPc_masked :
    let s := interrupting at100
    s.mode = .run ∧ s.undisturbed ∧ s.intHoldoff = false ∧ s.input.intReq = true ∧ s.gie = false := by
  unfold State.undisturbed; decide
theorem witness_RetfieReentersWhileRequested : -- E5
    let s := holding (interrupting { at100 with pc := 0x0005, stack := [0x0123] }) 0x0009
    s.executesNext ∧ s.holdsAtPc 0x0009 ∧ s.stack = 0x0123 :: [] ∧ ([] : List Pc).length < s.cfg.stackDepth ∧
    s.takeInput.undisturbed ∧ s.takeInput.input.intReq = true := by
  unfold State.executesNext State.undisturbed State.holdsAtPc; decide
theorem witness_WatchdogTimeoutResetsRunningCore :
    let s := timingOut at100
    s.cfg.wf = true ∧ s.cfg.wdtEnabled = true ∧ s.mode = .run ∧ s.input.reset = none ∧
    s.input.wdtTimeout = true := by decide
theorem witness_WatchdogTimeoutWakesSleepingCore :
    let s := timingOut asleep
    s.cfg.wf = true ∧ s.cfg.wdtEnabled = true ∧ s.mode = .sleep ∧ s.input.reset = none ∧
    s.input.wdtTimeout = true := by decide
theorem witness_InterruptWakeRunsOneInstruction :
    let s := interrupting { asleep with gieReg := 0x80 }
    s.mode = .sleep ∧ s.undisturbed ∧ s.input.intReq = true ∧ s.takeInput.undisturbed ∧ s.holdsAtPc 0x0000 ∧
    decode 0x0000 = .ok .nop := by
  unfold State.undisturbed State.holdsAtPc; decide
theorem witness_InterruptWakeRunsOneInstruction_entry :
    ((nextOf (step { asleep with
        gieReg := 0x80, inputs := [{ intReq := true }, {}, { intReq := true }] })).bind fun t =>
      (nextOf (step t)).map fun u =>
        u.gie && u.mode == .run && u.input.reset == none && !u.input.wdtTimeout && u.input.intReq) = some true := by
  decide
theorem witness_ResetBeforeTimeoutBeforeInterrupt_reset :
    ({ at100 with inputs := [{ reset := some .external, wdtTimeout := true, intReq := true }] } : State).input.reset =
      some .external := rfl
theorem witness_ResetBeforeTimeoutBeforeInterrupt_timeout :
    let s : State := { at100 with gieReg := 0x80, inputs := [{ wdtTimeout := true, intReq := true }] }
    s.input.reset = none ∧ s.cfg.wdtEnabled = true ∧ s.input.wdtTimeout = true := by decide
theorem witness_PowerOnResetMeetsTable :
    let s : State := { asleep with inputs := [{ reset := some .powerOn, unspecified := { w := 0xFF, c := true } }] }
    s.cfg.wf = true ∧ s.input.reset = some .powerOn := by decide
theorem witness_ExternalResetKeepsOrMarksSleep :
    let s : State := { asleep with inputs := [{ reset := some .external }] }
    s.cfg.wf = true ∧ s.input.reset = some .external ∧ { s with mode := .run }.input.reset = some .external := by decide
theorem witness_SleepingCoreKeepsState : asleep.mode = .sleep ∧ asleep.undisturbed ∧ asleep.input.intReq = false := by
  unfold State.undisturbed; decide
theorem witness_SleepingCoreKeepsState_watchdog_disabled :
    let s : State := { noWatchdog with mode := .sleep, status := 0x10 }
    s.mode = .sleep ∧ s.undisturbed ∧ s.input.intReq = false ∧ s.cfg.wdtEnabled = false := by
  unfold State.undisturbed; decide
theorem witness_DisabledWatchdogNeverTimesOut :
    let s := holding (timingOut noWatchdog) 0x0064
    s.cfg.wf = true ∧ s.cfg.wdtEnabled = false ∧ s.wdt = 0 ∧ s.wdtPrescaler = 0 ∧ s.flagTo = true ∧
    ∃ t, step s = .next t := ⟨by decide, rfl, rfl, rfl, by decide, _, rfl⟩
theorem witness_OnlyNamedFlagsChange :
    (∃ t, exec (.addwf 0x0C .f) at100 = .next t) ∧ cellWritten (.addwf 0x0C .f) at100 ≠ some .status ∧
    (7 : BitNum) ∉ namedFlags at100.cfg (.addwf 0x0C .f) := ⟨⟨_, rfl⟩, by decide, by decide⟩
theorem witness_TimeoutAndPowerDownBitsAreProtected :
    at100.cfg.wf = true ∧ (∃ t, exec (.clrf 0x03) at100 = .next t) ∧ cellWritten (.clrf 0x03) at100 = some .status :=
  ⟨by decide, ⟨_, rfl⟩, by decide⟩

/-- What an instruction changed of the registers a cell can be. -/
def changed (i : Instr) (s : State) : Option (List Bool) :=
  (nextOf (exec i s)).map fun t =>
    [t.fsr != s.fsr, t.pclath != s.pclath, t.optionReg != s.optionReg, t.gieReg != s.gieReg,
      Memory.read t.ram 0 != Memory.read s.ram 0, t.outputs != s.outputs]

theorem witness_RegistersChangeOnlyByTheirWriters_cells :
    changed (.movwf 0x04) (regs 0x55 0x18 0 0) = some [true, false, false, false, false, false] ∧
    changed (.movwf 0x0A) (regs 0x55 0x18 0 0) = some [false, true, false, false, false, false] ∧
    changed (.movwf 0x01) (regs 0x55 0x38 0 0) = some [false, false, true, false, false, false] ∧
    changed (.movwf 0x0B) (regs 0x55 0x18 0 0) = some [false, false, false, true, false, false] ∧
    changed (.movwf 0x0C) (regs 0x55 0x18 0 0) = some [false, false, false, false, true, false] ∧
    changed (.movwf 0x05) (regs 0x55 0x18 0 0) = some [false, false, false, false, false, true] := by decide
theorem witness_RegistersChangeOnlyByTheirWriters_others :
    (nextOf (exec (.call 5) at100)).map (fun t => t.stack != at100.stack) = some true ∧
    (nextOf (exec .clrwdt { at100 with wdt := 1 })).map (·.wdt) = some 0 ∧
    (nextOf (exec .sleep at100)).map (·.mode) = some .sleep := by decide
theorem witness_CyclesFollowTheTable :
    twoCycles (.goto 0) = true ∧ (∃ t, exec (.goto 0) at100 = .next t) ∧ oneCycle (.movwf 0x02) = true ∧
    (∃ t, exec (.movwf 0x02) at100 = .next t) ∧ cellWritten (.movwf 0x02) at100 = some .pcl ∧
    ∃ t, exec .nop at100 = .next t ∧ t.cycles = at100.cycles + 1 :=
  ⟨rfl, ⟨_, rfl⟩, rfl, ⟨_, rfl⟩, by decide, _, rfl, rfl⟩
theorem witness_OnlySleepEntersSleep :
    ∃ t, step (at100With 0x0063) = .next t ∧ (at100With 0x0063).mode = .run ∧ t.mode = .sleep := ⟨_, rfl, rfl, rfl⟩
theorem witness_StepKeepsProgramAndParameters : ∃ t, step (at100With 0x0000) = .next t := ⟨_, rfl⟩
theorem witness_StepKeepsInvariant : (at100With 0x00FF).Inv ∧ ∃ t, step (at100With 0x00FF) = .next t :=
  ⟨by constructor <;> decide, _, rfl⟩

end Sys2Proof.Tests
end

section
/-! The scope of the model (00_scope.md): what a step runs (rules R9, R62), which instructions can be refused
(rules R10, R43) and what no step changes (rules R3, R61, R79). -/
namespace Sys2Proof.Machine

/-! ### The step at a quiet boundary -/

/-- The instruction at `pc` is the one its word decodes to (rules R9, R62, R108). -/
theorem State.runInstruction_of_holdsAtPc {s : State} {w : InstrWord} {i : Instr} (hw : s.holdsAtPc w)
    (hd : decode w = .ok i) : s.runInstruction = exec i s := by
  unfold State.runInstruction
  rw [State.fetch_of_holdsAtPc hw]
  dsimp only
  rw [hd]

/-- Where the boundary brings the instruction at `pc`, the step is that instruction (rule R235). -/
theorem step_of_executesNext {s : State} (h : s.executesNext) : step s = s.takeInput.runInstruction := by
  unfold step
  rw [s.action_eq_execute.2 h]

/-- A boundary's input moves the watchdog's counters only where the watchdog is enabled and the environment
gives new values (rules R44, R243). -/
theorem State.takeInput_keeps_watchdog {s : State}
    (h : s.cfg.wdtEnabled = false ∨ s.input.wdtCounters = none) :
    s.takeInput.wdt = s.wdt ∧ s.takeInput.wdtPrescaler = s.wdtPrescaler := by
  rcases h with h | h <;> simp [State.takeInput, h]

/-! ### Which instructions can be refused -/

/-- CALL completes, or its push meets a full stack that does not wrap (rules R43, R196). -/
theorem execCall_completes_or_overflows (k : Target) (s : State) :
    (∃ t, execCall k s = .next t) ∨
    (s.cfg.stackWrap = false ∧ s.cfg.stackDepth ≤ s.stack.length ∧
      execCall k s = .refused .stackOverflow) := by
  unfold execCall
  cases hp : s.push (s.pc + 1) with
  | some t => exact .inl ⟨_, rfl⟩
  | none =>
    obtain ⟨hfull, hwrap⟩ := (s.push_eq_none _).1 hp
    exact .inr ⟨hwrap, hfull, rfl⟩

/-- A return completes, or its pop meets an empty stack that does not wrap or has no entry
(rules R43, R197 to R199). -/
theorem State.popReturn_completes_or_underflows (s : State) (effect : State → State) :
    (∃ t, s.popReturn effect = .next t) ∨
    (s.stack = [] ∧ (s.cfg.stackWrap = false ∨ s.stale = []) ∧
      s.popReturn effect = .refused .stackUnderflow) := by
  unfold State.popReturn
  cases hp : s.pop with
  | some p => exact .inl ⟨_, rfl⟩
  | none =>
    obtain ⟨hempty, hwrap⟩ := s.pop_eq_none.1 hp
    exact .inr ⟨hempty, hwrap, rfl⟩

/-! ### What every step can do -/

/-- Everything a step can complete with, by what the boundary brings (rules R235, R9). -/
theorem step_cases {s t : State} (h : step s = .next t) :
    (∃ k, s.action = .reset k ∧ t = s.takeInput.resetBy s.input.unspecified k) ∨
    (s.action = .watchdogReset ∧ t = s.takeInput.watchdogReset s.input.unspecified) ∨
    (s.action = .watchdogWake ∧ t = s.takeInput.watchdogWake) ∨
    (s.action = .interruptWake ∧ t = s.takeInput.interruptWake) ∨
    (s.action = .interruptEntry ∧ s.takeInput.interruptEntry = .next t) ∨
    (s.action = .stayAsleep ∧ t = s.takeInput) ∨
    (s.action = .execute ∧ ∃ w i, s.holdsAtPc w ∧ decode w = .ok i ∧ exec i s.takeInput = .next t) := by
  unfold step at h
  cases ha : s.action <;> rw [ha] at h
  case interruptEntry => simp [h]
  case execute => simpa [State.takeInput_holdsAtPc] using State.runInstruction_cases h
  all_goals cases h; simp

/-! ### What no step changes -/

/-- `t` has the program, the parameters and the environment's answers still to come of `s` (rules R3, R61). -/
structure SameSetting (s t : State) : Prop where
  /-- Program memory (rules R61, R79). -/
  prog : t.prog = s.prog
  /-- The parameters (rule R3). -/
  cfg : t.cfg = s.cfg
  /-- The model's own inputs. -/
  inputs : t.inputs = s.inputs

theorem SameSetting.refl (s : State) : SameSetting s s := ⟨rfl, rfl, rfl⟩

theorem SameSetting.trans {s t u : State} (hst : SameSetting s t) (htu : SameSetting t u) :
    SameSetting s u :=
  ⟨htu.prog.trans hst.prog, htu.cfg.trans hst.cfg, htu.inputs.trans hst.inputs⟩

/-- A destination operand is a register, never the program or a parameter (rules R8, R66). -/
theorem DestFrame.sameSetting {s t : State} {f : FileNum} {d : Dest} {v : Byte} {named : List BitNum}
    (h : DestFrame s t f d v named) : SameSetting s t := by
  obtain ⟨-, hprog, hcfg, hinputs, -⟩ := h.rest
  exact ⟨hprog, hcfg, hinputs⟩

/-- An instruction with a destination operand, after a read of its register. -/
theorem complete_afterRead_sameSetting (s : State) (f : FileNum) (d : Dest) (v : Byte)
    {named : List BitNum} {g : State → State} (hg : FlagUpdate s.cfg named g) :
    SameSetting s ((s.afterRead f).complete f d v g) := by
  obtain ⟨hframe, -, -⟩ := complete_spec (f := f) (d := d) (v := v) hg (s.afterRead_eq f)
  exact hframe.sameSetting

/-- An instruction that writes its register unread (MOVWF, CLRF). -/
theorem complete_sameSetting (s : State) (f : FileNum) (d : Dest) (v : Byte)
    {named : List BitNum} {g : State → State} (hg : FlagUpdate s.cfg named g) :
    SameSetting s (s.complete f d v g) := by
  obtain ⟨hframe, -, -⟩ := complete_spec (f := f) (d := d) (v := v) hg ⟨s.freeIx, rfl⟩
  exact hframe.sameSetting

theorem completeSkip_afterRead_sameSetting (s : State) (f : FileNum) (d : Dest) (r : Byte) :
    SameSetting s ((s.afterRead f).completeSkip f d r) := by
  obtain ⟨hframe, -⟩ := completeSkip_spec (f := f) (d := d) (r := r) (s.afterRead_eq f)
  exact hframe.sameSetting

theorem skipIf_afterRead_sameSetting (s : State) (f : FileNum) (b : Bool) :
    SameSetting s ((s.afterRead f).skipIf b) := by
  cases b <;> constructor <;> simp [State.skipIf]

theorem State.push_sameSetting {s t : State} {v : Pc} (h : s.push v = some t) : SameSetting s t := by
  obtain ⟨-, rfl⟩ | ⟨-, -, rfl⟩ := State.push_cases h <;> exact ⟨rfl, rfl, rfl⟩

theorem State.pop_sameSetting {s t : State} {a : Pc} (h : s.pop = some (a, t)) : SameSetting s t := by
  obtain ⟨_, -, rfl⟩ | ⟨-, -, _, -, rfl⟩ := State.pop_cases h <;> exact ⟨rfl, rfl, rfl⟩

theorem State.popReturn_sameSetting {s t : State} {effect : State → State}
    (he : ∀ u, SameSetting u (effect u)) (h : s.popReturn effect = .next t) : SameSetting s t := by
  obtain ⟨a, u, hpop, rfl⟩ := State.popReturn_cases h
  have hjump : SameSetting u (u.jump a) := ⟨rfl, rfl, rfl⟩
  exact ((State.pop_sameSetting hpop).trans hjump).trans (he _)

theorem execCall_sameSetting {s t : State} {k : Target} (h : execCall k s = .next t) :
    SameSetting s t := by
  obtain ⟨u, hpush, rfl⟩ := execCall_cases h
  exact (State.push_sameSetting hpush).trans ⟨rfl, rfl, rfl⟩

theorem State.interruptEntry_sameSetting {s t : State} (h : s.interruptEntry = .next t) :
    SameSetting s t := by
  obtain ⟨u, hpush, rfl⟩ := State.interruptEntry_cases h
  obtain ⟨hprog, hcfg, hinputs⟩ := State.push_sameSetting hpush
  exact ⟨hprog, hcfg, hinputs⟩

theorem State.resetBy_sameSetting (s : State) (u : Unspecified) (k : ResetKind) :
    SameSetting s (s.resetBy u k) := by
  cases k with
  | powerOn => exact ⟨rfl, rfl, rfl⟩
  | external =>
    unfold State.resetBy State.externalReset
    cases s.mode <;> exact ⟨rfl, rfl, rfl⟩

/-- No instruction changes the program, the parameters or the inputs to come (rules R3, R61, R79). -/
theorem exec_sameSetting {i : Instr} {s t : State} (h : exec i s = .next t) : SameSetting s t := by
  cases i with
  | movwf f => cases h; exact complete_sameSetting s f _ _ (flagUpdate_id _)
  | clrf f => cases h; exact complete_sameSetting s f _ _ (flagUpdate_setZ _ _)
  | swapf f | bcf f | bsf f => cases h; exact complete_afterRead_sameSetting s f _ _ (flagUpdate_id _)
  | addwf f | subwf f => cases h; exact complete_afterRead_sameSetting s f _ _ (flagUpdate_setCDcZ _ _)
  | movf f | andwf f | iorwf f | xorwf f | incf f | decf f | comf f =>
    cases h; exact complete_afterRead_sameSetting s f _ _ (flagUpdate_setZOf _ _)
  | rlf f | rrf f => cases h; exact complete_afterRead_sameSetting s f _ _ (flagUpdate_setC _ _)
  | btfsc f | btfss f => cases h; exact skipIf_afterRead_sameSetting s f _
  | incfsz f | decfsz f => cases h; exact completeSkip_afterRead_sameSetting s f _ _
  | call k => exact execCall_sameSetting h
  | ret => exact State.popReturn_sameSetting (effect := id) (fun _ => ⟨rfl, rfl, rfl⟩) h
  | retlw k =>
    exact State.popReturn_sameSetting (effect := fun u => { u with w := k }) (fun _ => ⟨rfl, rfl, rfl⟩) h
  | retfie => exact State.popReturn_sameSetting (effect := (·.setGie true)) (fun _ => ⟨rfl, rfl, rfl⟩) h
  | movlw | clrw | addlw | sublw | andlw | iorlw | xorlw | goto | nop | clrwdt | sleep =>
    cases h; exact ⟨rfl, rfl, rfl⟩

/-- Whatever the boundary brings, only its own input is used up (rules R3, R61, R79). -/
theorem step_sameSetting {s t : State} (h : step s = .next t) : SameSetting s.takeInput t := by
  obtain ⟨k, -, rfl⟩ | ⟨-, rfl⟩ | ⟨-, rfl⟩ | ⟨-, rfl⟩ | ⟨-, hentry⟩ | ⟨-, rfl⟩ |
    ⟨-, w, i, -, -, hexec⟩ := step_cases h
  · exact State.resetBy_sameSetting _ _ k
  · exact ⟨rfl, rfl, rfl⟩
  · exact ⟨rfl, rfl, rfl⟩
  · exact ⟨rfl, rfl, rfl⟩
  · exact State.interruptEntry_sameSetting hentry
  · exact .refl _
  · exact exec_sameSetting hexec

end Sys2Proof.Machine

namespace Sys2Proof.Proofs
open Sys2Proof Sys2Proof.Machine

/-- Settles O53: only CALL and the returns touch the stack, and every other arm of `exec` gives a next state. -/
theorem onlyStackInstructionsAreEverRefused : Obligations.OnlyStackInstructionsAreEverRefused := by
  intro i s
  cases i with
  | call k =>
    obtain hnext | hrefused := execCall_completes_or_overflows k s
    · exact .inl hnext
    · exact .inr (.inl ⟨⟨k, rfl⟩, hrefused⟩)
  | ret =>
    exact (s.popReturn_completes_or_underflows id).imp_right fun hrefused => .inr ⟨.inl rfl, hrefused⟩
  | retfie =>
    exact (s.popReturn_completes_or_underflows (·.setGie true)).imp_right fun hrefused =>
      .inr ⟨.inr (.inl rfl), hrefused⟩
  | retlw k =>
    exact (s.popReturn_completes_or_underflows fun u => { u with w := k }).imp_right fun hrefused =>
      .inr ⟨.inr (.inr ⟨k, rfl⟩), hrefused⟩
  | _ => exact .inl ⟨_, rfl⟩

/-- Settles O56, by what the boundary brings and, where it brings an instruction, by the instruction. -/
theorem stepKeepsProgramAndParameters : Obligations.StepKeepsProgramAndParameters := by
  intro s t h
  obtain ⟨hprog, hcfg, hinputs⟩ := step_sameSetting h
  exact ⟨hprog, hcfg, hinputs⟩

/-- Settles O7: using up the boundary's input moves neither `pc` nor the program, so the word is still there. -/
theorem stepRunsDecodedInstruction : Obligations.StepRunsDecodedInstruction := by
  intro s w i hnext hword hdecode
  refine ⟨?_, rfl, State.takeInput_keeps_watchdog⟩
  calc step s = s.takeInput.runInstruction := step_of_executesNext hnext
    _ = exec i s.takeInput :=
      State.runInstruction_of_holdsAtPc ((s.takeInput_holdsAtPc w).2 hword) hdecode

end Sys2Proof.Proofs
end

section
/-! What each instruction can have done once it completes, in one inversion lemma (`exec_effect`), and what follows
for the registers, the flags and the invariant (10_state.md). -/
namespace Sys2Proof.Machine

/-! ### The stack after a push and after a pop -/

/-- `Push` moves entries of the stack and changes nothing else; a stack whose live and stale entries fill it
stays so (rules R40, R41, R43). -/
theorem State.push_stack {s t : State} {v : Pc} (h : s.push v = some t) :
    ∃ l m, t = { s with stack := l, stale := m } ∧
      (s.stack.length + s.stale.length = s.cfg.stackDepth → l.length + m.length = s.cfg.stackDepth) := by
  obtain ⟨hroom, rfl⟩ | ⟨hfull, -, rfl⟩ := State.push_cases h
  · refine ⟨_, _, rfl, fun hfill => ?_⟩
    simp only [List.length_cons, List.length_dropLast]
    omega
  · refine ⟨_, _, rfl, fun hfill => ?_⟩
    simp only [List.length_take, List.length_cons]
    omega

/-- `Pop` moves entries of the stack and changes nothing else; it neither adds nor loses one
(rules R40, R42, R43). -/
theorem State.pop_stack {s t : State} {a : Pc} (h : s.pop = some (a, t)) :
    ∃ l m, t = { s with stack := l, stale := m } ∧
      l.length + m.length = s.stack.length + s.stale.length := by
  obtain ⟨rest, hstack, rfl⟩ | ⟨hstack, -, rest, hstale, rfl⟩ := State.pop_cases h
  · refine ⟨_, _, rfl, ?_⟩
    simp only [hstack, List.length_append, List.length_cons, List.length_nil]
    omega
  · exact ⟨_, _, rfl, by simp [hstale]⟩

/-! ### The general-purpose registers after an instruction with a destination -/

theorem State.dest_ram_wf {s : State} (f : FileNum) (d : Dest) (v : Byte) (h : Memory.wf s.ram = true) :
    Memory.wf (s.dest f d v).ram = true := by
  cases d with
  | w => exact h
  | f => exact State.writeCell_wf _ v h

theorem complete_ram_wf {s : State} {f : FileNum} {d : Dest} {v : Byte} {c : Config} {named : List BitNum}
    {g : State → State} (hg : FlagUpdate c named g) (h : Memory.wf s.ram = true) :
    Memory.wf (s.complete f d v g).ram = true := by
  have hdest := State.dest_ram_wf f d v h
  unfold State.complete
  rw [hg.only]
  cases s.pclTarget f d v <;> exact hdest

theorem completeSkip_ram_wf {s : State} {f : FileNum} {d : Dest} {r : Byte} (h : Memory.wf s.ram = true) :
    Memory.wf (s.completeSkip f d r).ram = true := by
  have hdest := State.dest_ram_wf f d r h
  unfold State.completeSkip
  cases s.pclTarget f d r <;> cases r == 0 <;> exact hdest

/-! ### Everything an instruction can do -/

/-- What the instruction `i` can have made of the state `s`, in five shapes. -/
inductive InstrEffect (i : Instr) (s : State) : State → Prop
  /-- A byte went to the destination operand, and the flags `i` names were written (rules R8, R50, R71). -/
  | destination {t : State} {f : FileNum} {d : Dest} {v : Byte}
      (frame : DestFrame s t f d v (namedFlags s.cfg i)) (written : d = .f → fileWritten i = some f)
      (ramWf : Memory.wf s.ram = true → Memory.wf t.ram = true) : InstrEffect i s t
  /-- At most `W`, the flags `i` names and where execution goes on. -/
  | core {w status : Byte} {a : Pc} {c n : Nat}
      (flags : ∀ p, p ∉ namedFlags s.cfg i → getBit status p = getBit s.status p) :
      InstrEffect i s { s with w := w, status := status, pc := a, cycles := c, freeIx := n }
  /-- CALL or a return: entries of the stack moved (rules R41 to R43). -/
  | stack {l m : List Pc} {w g : Byte} {a : Pc} {c : Nat}
      (mover : i = .ret ∨ i = .retfie ∨ (∃ k, i = .retlw k) ∨ ∃ k, i = .call k)
      (gie : g = s.gieReg ∨ i = .retfie)
      (fills : s.stack.length + s.stale.length = s.cfg.stackDepth → l.length + m.length = s.cfg.stackDepth) :
      InstrEffect i s { s with w := w, gieReg := g, pc := a, stack := l, stale := m, cycles := c }
  /-- CLRWDT (rule R221). -/
  | clrwdt (is : i = .clrwdt) : InstrEffect i s ((s.clearWatchdog.setTo true).setPd true).advance
  /-- SLEEP (rule R222). -/
  | sleep (is : i = .sleep) :
      InstrEffect i s { ((s.clearWatchdog.setTo true).setPd false).advance with mode := .sleep }

/-- An instruction with a destination operand, from the state `s` itself or from `s` once its register was read
(rules R69, R70). -/
theorem complete_effect {i : Instr} {s s' : State} {f : FileNum} {d : Dest} {v : Byte} {g : State → State}
    (hg : FlagUpdate s.cfg (namedFlags s.cfg i) g) (hs : ∃ n, s' = { s with freeIx := n })
    (written : d = .f → fileWritten i = some f) : InstrEffect i s (s'.complete f d v g) := by
  obtain ⟨frame, -, -⟩ := complete_spec (f := f) (d := d) (v := v) hg hs
  obtain ⟨n, rfl⟩ := hs
  exact .destination frame written fun h => complete_ram_wf hg h

/-- INCFSZ and DECFSZ. -/
theorem completeSkip_effect {i : Instr} {s s' : State} {f : FileNum} {d : Dest} {r : Byte}
    (named : namedFlags s.cfg i = []) (hs : ∃ n, s' = { s with freeIx := n })
    (written : d = .f → fileWritten i = some f) : InstrEffect i s (s'.completeSkip f d r) := by
  obtain ⟨frame, -⟩ := completeSkip_spec (f := f) (d := d) (r := r) hs
  obtain ⟨n, rfl⟩ := hs
  exact .destination (named ▸ frame) written fun h => completeSkip_ram_wf h

/-- An instruction that writes `W` and the flags it names, then goes on at `pc + 1`. -/
theorem literal_effect {i : Instr} {s : State} (w : Byte) {g : State → State}
    (hg : FlagUpdate s.cfg (namedFlags s.cfg i) g) : InstrEffect i s (g { s with w := w }).advance := by
  have hbits := hg.bits { s with w := w }
  rw [hg.only]
  exact .core fun p hp => hbits p rfl hp

theorem literalArith_effect {i : Instr} {s : State} {a : AluResult}
    (named : namedFlags s.cfg i = [s.cfg.bitC, s.cfg.bitDc, s.cfg.bitZ]) :
    InstrEffect i s (s.literalArith a) :=
  literal_effect (g := (·.setCDcZ a)) a.r (named ▸ flagUpdate_setCDcZ _ a)

theorem literalLogic_effect {i : Instr} {s : State} {r : Byte} (named : namedFlags s.cfg i = [s.cfg.bitZ]) :
    InstrEffect i s (s.literalLogic r) :=
  literal_effect (g := (·.setZOf r)) r (named ▸ flagUpdate_setZOf _ r)

/-- BTFSC and BTFSS. -/
theorem skipIf_effect {i : Instr} {s s' : State} (b : Bool) (hs : ∃ n, s' = { s with freeIx := n }) :
    InstrEffect i s (s'.skipIf b) := by
  obtain ⟨n, rfl⟩ := hs
  cases b <;> exact .core fun _ _ => rfl

/-- A return that ends with `effect`, which writes at most `W` and the register of `GIE`. -/
theorem popReturn_effect {i : Instr} {s t : State} {effect : State → State}
    (mover : i = .ret ∨ i = .retfie ∨ (∃ k, i = .retlw k) ∨ ∃ k, i = .call k)
    (he : ∀ u, ∃ w g, effect u = { u with w := w, gieReg := g } ∧ (g = u.gieReg ∨ i = .retfie))
    (h : s.popReturn effect = .next t) : InstrEffect i s t := by
  obtain ⟨a, u, hpop, rfl⟩ := State.popReturn_cases h
  obtain ⟨l, m, rfl, hlen⟩ := State.pop_stack hpop
  obtain ⟨w, g, heq, hgie⟩ := he (State.jump { s with stack := l, stale := m } a)
  rw [heq]
  exact .stack mover hgie fun hfill => hlen.trans hfill

theorem execCall_effect {s t : State} {k : Target} (h : execCall k s = .next t) :
    InstrEffect (.call k) s t := by
  obtain ⟨u, hpush, rfl⟩ := execCall_cases h
  obtain ⟨l, m, rfl, hfill⟩ := State.push_stack hpush
  exact .stack (.inr (.inr (.inr ⟨k, rfl⟩))) (.inl rfl) hfill

/-- Everything an instruction can complete with. -/
theorem exec_effect {i : Instr} {s t : State} (h : exec i s = .next t) : InstrEffect i s t := by
  cases i with
  | movwf f => cases h; exact complete_effect (flagUpdate_id _) ⟨_, rfl⟩ fun _ => rfl
  | clrf f => cases h; exact complete_effect (flagUpdate_setZ _ _) ⟨_, rfl⟩ fun _ => rfl
  | bcf f b | bsf f b => cases h; exact complete_effect (flagUpdate_id _) (s.afterRead_eq f) fun _ => rfl
  | swapf f d =>
    cases h; exact complete_effect (flagUpdate_id _) (s.afterRead_eq f) (by rintro rfl; rfl)
  | movf f d | andwf f d | iorwf f d | xorwf f d | incf f d | decf f d | comf f d =>
    cases h; exact complete_effect (flagUpdate_setZOf _ _) (s.afterRead_eq f) (by rintro rfl; rfl)
  | addwf f d | subwf f d =>
    cases h; exact complete_effect (flagUpdate_setCDcZ _ _) (s.afterRead_eq f) (by rintro rfl; rfl)
  | rlf f d | rrf f d =>
    cases h; exact complete_effect (flagUpdate_setC _ _) (s.afterRead_eq f) (by rintro rfl; rfl)
  | incfsz f d | decfsz f d =>
    cases h; exact completeSkip_effect rfl (s.afterRead_eq f) (by rintro rfl; rfl)
  | btfsc f b | btfss f b => cases h; exact skipIf_effect _ (s.afterRead_eq f)
  | addlw k | sublw k => cases h; exact literalArith_effect rfl
  | andlw k | iorlw k | xorlw k => cases h; exact literalLogic_effect rfl
  | clrw => cases h; exact literal_effect (g := (·.setZ true)) 0 (flagUpdate_setZ _ _)
  | movlw | goto | nop => cases h; exact .core fun _ _ => rfl
  | call k => exact execCall_effect h
  | ret => exact popReturn_effect (effect := id) (.inl rfl) (fun _ => ⟨_, _, rfl, .inl rfl⟩) h
  | retlw k =>
    exact popReturn_effect (effect := fun u => { u with w := k }) (.inr (.inr (.inl ⟨k, rfl⟩)))
      (fun _ => ⟨_, _, rfl, .inl rfl⟩) h
  | retfie =>
    exact popReturn_effect (effect := (·.setGie true)) (.inr (.inl rfl))
      (fun _ => ⟨_, _, rfl, .inr rfl⟩) h
  | clrwdt => cases h; exact .clrwdt rfl
  | sleep => cases h; exact .sleep rfl

/-! ### The flags -/

/-- A destination that is the cell `c` is the cell the instruction writes (rule R21). -/
theorem cellWritten_of_writesCell {i : Instr} {s : State} {f : FileNum} {d : Dest} {c : Cell}
    (written : d = .f → fileWritten i = some f) (h : s.writesCell f d c) : cellWritten i s = some c := by
  obtain ⟨hd, hc⟩ := h
  simp [cellWritten, written hd, hc]

/-- A `STATUS` bit that `i` does not name changes only where `STATUS` is the destination, and then it is neither
`TO` nor `PD` (rules R29, R31, R50). -/
theorem InstrEffect.status_bit {i : Instr} {s t : State} (h : InstrEffect i s t) {p : BitNum}
    (hp : p ∉ namedFlags s.cfg i) :
    getBit t.status p = getBit s.status p ∨
      (cellWritten i s = some .status ∧ p ≠ s.cfg.bitTo ∧ p ≠ s.cfg.bitPd) := by
  cases h with
  | @destination _ f d v frame written ramWf =>
    rw [frame.status p hp]
    split
    · next hw => exact .inr ⟨cellWritten_of_writesCell written hw.1, hw.2⟩
    · exact .inl rfl
  | core flags => exact .inl (flags p hp)
  | stack => exact .inl rfl
  | clrwdt is | sleep is =>
    subst is
    simp only [namedFlags, List.mem_cons, List.not_mem_nil, or_false, not_or] at hp
    exact .inl (by simp [hp])

/-- Only CLRWDT and SLEEP name another flag than `C`, `DC` and `Z` (rule R50). -/
theorem namedFlags_subset {i : Instr} (c : Config) (hclrwdt : i ≠ .clrwdt) (hsleep : i ≠ .sleep) :
    namedFlags c i ⊆ [c.bitC, c.bitDc, c.bitZ] := by
  cases i
  case clrwdt => exact absurd rfl hclrwdt
  case sleep => exact absurd rfl hsleep
  all_goals simp [namedFlags]

/-- At legal parameters `TO` and `PD` stand at no position of `C`, `DC` or `Z` (rule R23). -/
theorem Config.wf_to_pd {c : Config} (h : c.wf = true) :
    c.bitTo ∉ [c.bitC, c.bitDc, c.bitZ] ∧ c.bitPd ∉ [c.bitC, c.bitDc, c.bitZ] ∧ c.bitTo ≠ c.bitPd := by
  have := Config.wf_distinct h
  simp only [List.nodup_cons, List.mem_cons, List.not_mem_nil, not_or] at this ⊢
  tauto

/-! ### The registers -/

/-- The record of device writes grows only where the destination is a device register (rule R69). -/
theorem State.recordedWrites_eq_or (s : State) (f : FileNum) (d : Dest) (v : Byte) :
    s.recordedWrites f d v = s.outputs ∨ ∃ n, s.writesCell f d (.peripheral n) := by
  unfold State.recordedWrites
  split
  · next n hc => exact .inr ⟨n, rfl, hc⟩
  · exact .inl rfl

/-! ### The invariant -/

/-- The invariant passes to a running core that keeps the setting, the canonical registers, a filled stack
and a disabled watchdog's zero counters. -/
theorem State.Inv.of_running {s t : State} (h : s.Inv) (hset : SameSetting s t)
    (hram : Memory.wf t.ram = true) (hstack : t.stack.length + t.stale.length = s.cfg.stackDepth)
    (hwdt : s.cfg.wdtEnabled = false → t.wdt = 0 ∧ t.wdtPrescaler = 0) (hmode : t.mode = .run) :
    t.Inv where
  config := hset.cfg ▸ h.config
  ram := hram
  prog := hset.prog ▸ h.prog
  stack := hset.cfg ▸ hstack
  watchdog := hset.cfg ▸ hwdt
  asleep hm := by simp [hmode] at hm
  holdoff _ := hmode

theorem State.Inv.takeInput {s : State} (h : s.Inv) : s.takeInput.Inv where
  config := h.config
  ram := h.ram
  prog := h.prog
  stack := h.stack
  watchdog hoff := by
    obtain ⟨hwdt, hpre⟩ := State.takeInput_keeps_watchdog (s := s) (.inl hoff)
    simpa [hwdt, hpre] using h.watchdog hoff
  asleep := h.asleep
  holdoff hh := by simp at hh

theorem State.Inv.resetCommon {s : State} (h : s.Inv) (u : Unspecified) (x : Byte) :
    (s.resetCommon u x).Inv :=
  h.of_running ⟨rfl, rfl, rfl⟩ h.ram (by simp) (fun _ => ⟨rfl, rfl⟩) rfl

/-- Power-on also takes the general-purpose registers from the environment, in canonical form (rule R51). -/
theorem State.Inv.powerOnReset {s : State} (h : s.Inv) (u : Unspecified) : (s.powerOnReset u).Inv :=
  h.of_running ⟨rfl, rfl, rfl⟩ (Memory.wf_ofCells u.ram) (by simp [State.powerOnReset])
    (fun _ => ⟨rfl, rfl⟩) rfl

theorem State.Inv.resetBy {s : State} (h : s.Inv) (u : Unspecified) (k : ResetKind) :
    (s.resetBy u k).Inv := by
  cases k with
  | powerOn => exact h.powerOnReset u
  | external =>
    unfold State.resetBy State.externalReset
    cases s.mode <;> exact h.resetCommon u _

theorem State.Inv.watchdogWake {s : State} (h : s.Inv) : s.watchdogWake.Inv :=
  h.of_running ⟨rfl, rfl, rfl⟩ h.ram h.stack (fun _ => ⟨rfl, rfl⟩) rfl

theorem State.Inv.interruptWake {s : State} (h : s.Inv) : s.interruptWake.Inv :=
  h.of_running ⟨rfl, rfl, rfl⟩ h.ram h.stack h.watchdog rfl

theorem State.Inv.interruptEntry {s t : State} (h : s.Inv) (hmode : s.mode = .run)
    (hentry : s.interruptEntry = .next t) : t.Inv := by
  obtain ⟨u, hpush, rfl⟩ := State.interruptEntry_cases hentry
  obtain ⟨l, m, rfl, hfill⟩ := State.push_stack hpush
  exact h.of_running ⟨rfl, rfl, rfl⟩ h.ram (hfill h.stack) h.watchdog hmode

/-- SLEEP leaves `TO` 1 and `PD` 0, which stand at distinct positions (rules R23, R222). -/
theorem State.Inv.sleep {s : State} (h : s.Inv) (hholdoff : s.intHoldoff = false) :
    State.Inv { ((s.clearWatchdog.setTo true).setPd false).advance with mode := .sleep } where
  config := h.config
  ram := h.ram
  prog := h.prog
  stack := h.stack
  watchdog _ := ⟨rfl, rfl⟩
  asleep _ := by
    obtain ⟨-, -, hdistinct⟩ := Config.wf_to_pd h.config
    simp [State.flagTo, State.flagPd, hdistinct]
  holdoff hh := by simp [hholdoff] at hh

/-- Every instruction a running core completes keeps the invariant, once the boundary has ended the holdoff. -/
theorem State.Inv.exec {i : Instr} {s t : State} (h : s.Inv) (hmode : s.mode = .run)
    (hholdoff : s.intHoldoff = false) (hexec : exec i s = .next t) : t.Inv := by
  cases exec_effect hexec with
  | destination frame _ ramWf =>
    obtain ⟨hstack, hstale⟩ := frame.stack
    obtain ⟨hwdt, hpre⟩ := frame.watchdog
    exact h.of_running frame.sameSetting (ramWf h.ram) (by rw [hstack, hstale]; exact h.stack)
      (by rw [hwdt, hpre]; exact h.watchdog) (frame.rest.1.trans hmode)
  | core => exact h.of_running ⟨rfl, rfl, rfl⟩ h.ram h.stack h.watchdog hmode
  | stack _ _ fills => exact h.of_running ⟨rfl, rfl, rfl⟩ h.ram (fills h.stack) h.watchdog hmode
  | clrwdt => exact h.of_running ⟨rfl, rfl, rfl⟩ h.ram h.stack (fun _ => ⟨rfl, rfl⟩) hmode
  | sleep => exact h.sleep hholdoff

/-- Interrupt entry is the boundary of a running core (rules R235, R236). -/
theorem State.mode_of_action_interruptEntry {s : State} (h : s.action = .interruptEntry) :
    s.mode = .run := by
  cases hmode : s.mode with
  | run => rfl
  | sleep =>
    unfold State.action at h
    simp only [hmode] at h
    repeat' split at h
    all_goals cases h

end Sys2Proof.Machine

namespace Sys2Proof.Proofs
open Sys2Proof Sys2Proof.Machine

/-- Settles O50: of the two ways a bit can come through, the write of `STATUS` is excluded. -/
theorem onlyNamedFlagsChange : Obligations.OnlyNamedFlagsChange := by
  intro i s t p hexec hdest hp
  exact ((exec_effect hexec).status_bit hp).resolve_right fun hwrite => hdest hwrite.1

/-- Settles O51: `TO` and `PD` are named by no other instruction, and a write of `STATUS` holds them. -/
theorem timeoutAndPowerDownBitsAreProtected : Obligations.TimeoutAndPowerDownBitsAreProtected := by
  intro i s t hwf hexec hclrwdt hsleep
  obtain ⟨hto, hpd, -⟩ := Config.wf_to_pd hwf
  have hnamed := namedFlags_subset s.cfg hclrwdt hsleep
  have hcfg := (exec_sameSetting hexec).cfg
  have heffect := exec_effect hexec
  unfold State.flagTo State.flagPd
  rw [hcfg]
  constructor
  · exact (heffect.status_bit fun hp => hto (hnamed hp)).resolve_right fun hwrite => hwrite.2.1 rfl
  · exact (heffect.status_bit fun hp => hpd (hnamed hp)).resolve_right fun hwrite => hwrite.2.2 rfl

/-- Settles O52, by the shape of the instruction's effect. -/
theorem registersChangeOnlyByTheirWriters : Obligations.RegistersChangeOnlyByTheirWriters := by
  intro i s t hexec
  cases exec_effect hexec with
  | @destination _ f d v frame written ramWf =>
    have hcell {c : Cell} : s.writesCell f d c → cellWritten i s = some c :=
      cellWritten_of_writesCell written
    obtain ⟨hmode, hprog, hcfg, hinputs, hholdoff⟩ := frame.rest
    refine ⟨fun h => ?_, fun h => ?_, fun h => ?_, fun h => .inl ?_, fun n h => ?_, fun h => ?_,
      by simp [frame.stack], by simp [frame.watchdog], by simp [hmode], hprog, hcfg, hinputs, hholdoff⟩
    · rw [frame.fsr] at h; exact hcell (ite_ne_right_iff.1 h).1
    · rw [frame.pclath] at h; exact hcell (ite_ne_right_iff.1 h).1
    · rw [frame.optionReg] at h; exact hcell (ite_ne_right_iff.1 h).1
    · rw [frame.gieReg] at h; exact hcell (ite_ne_right_iff.1 h).1
    · rw [frame.ram] at h; exact hcell (ite_ne_right_iff.1 h).1
    · rw [frame.outputs] at h
      obtain ⟨n, hn⟩ := (s.recordedWrites_eq_or f d v).resolve_left h
      exact ⟨n, hcell hn⟩
  | core => simp
  | stack mover gie => simpa [mover] using fun hne => .inr (gie.resolve_left hne)
  | clrwdt is => simp [is]
  | sleep is => simp [is]

/-- Settles O57, by what the boundary brings. -/
theorem stepKeepsInvariant : Obligations.StepKeepsInvariant := by
  intro s t hinv hstep
  have h := hinv.takeInput
  obtain ⟨k, -, rfl⟩ | ⟨-, rfl⟩ | ⟨-, rfl⟩ | ⟨-, rfl⟩ | ⟨haction, hentry⟩ | ⟨-, rfl⟩ |
    ⟨haction, w, i, -, -, hexec⟩ := step_cases hstep
  · exact h.resetBy _ k
  · exact h.resetCommon _ _
  · exact h.watchdogWake
  · exact h.interruptWake
  · have hmode := State.mode_of_action_interruptEntry haction
    exact h.interruptEntry hmode hentry
  · exact h
  · exact h.exec (s.action_eq_execute.1 haction).1 rfl hexec

end Sys2Proof.Proofs
end

section
/-! The decoder's choice of a row (rules R99, R108), addressing and data memory (rules R64 to R68), the returns
(rules R42, R43, R197 to R199), and the reset table (rules R51, R260). -/
namespace Sys2Proof

/-! ### The decoder -/

/-- Some bit that both rows fix, they fix differently, so that no word matches both (rule R99). -/
abbrev OpcodeRow.Disjoint (r r' : OpcodeRow) : Prop := r'.pattern &&& r.mask ≠ r.pattern &&& r'.mask

theorem opcodeMap_disjoint : opcodeMap.Pairwise OpcodeRow.Disjoint := by decide

theorem OpcodeRow.Disjoint.not_matches {r r' : OpcodeRow} {w : InstrWord} (h : r.Disjoint r')
    (hw : r'.matches w = true) : r.matches w = false := by
  simp only [OpcodeRow.matches, beq_iff_eq, beq_eq_false_iff_ne] at hw ⊢
  rintro hr
  apply h
  rw [← hw, ← hr, BitVec.and_assoc, BitVec.and_assoc, BitVec.and_comm r.mask]

theorem find?_matches_of_disjoint {l : List OpcodeRow} {r : OpcodeRow} {w : InstrWord}
    (hl : l.Pairwise OpcodeRow.Disjoint) (hr : r ∈ l) (hw : r.matches w = true) :
    l.find? (·.matches w) = some r := by
  induction l with
  | nil => cases hr
  | cons q rest ih =>
    obtain ⟨hq, hrest⟩ := List.pairwise_cons.1 hl
    rcases List.mem_cons.1 hr with rfl | hr
    · exact List.find?_cons_of_pos hw
    · have hnot := (hq r hr).not_matches hw
      rw [List.find?_cons_of_neg (by simp [hnot]), ih hrest hr]

/-- A word is decoded by the row it matches, wherever that row stands (rule R108). -/
theorem decode_of_row {r : OpcodeRow} {w : InstrWord} (hr : r ∈ opcodeMap) (hw : r.matches w = true) :
    decode w = .ok (r.build w) := by
  rw [decode, find?_matches_of_disjoint opcodeMap_disjoint hr hw]

theorem encode_retlw (k : Byte) : encode (.retlw k) = 0x3400 ||| k.setWidth 14 := by
  rw [encode, formatK8, BitVec.append_def]
  rfl

/-- The two bits the decoder ignores in RETLW (rules R99, R100). -/
theorem decode_retlw (x : BitVec 2) (k : Byte) : decode (0b1101#4 ++ x ++ k) = .ok (.retlw k) := by
  have hrow : ⟨0x3400, 0x3C00, fun w => .retlw (fieldK8 w)⟩ ∈ opcodeMap :=
    List.mem_of_getElem? (i := 30) rfl
  have hfixed : (0b1101#4 ++ x ++ k) &&& (0b1111#4 ++ 0#2 ++ 0#8) = 0b1101#4 ++ 0#2 ++ 0#8 := by
    rw [BitVec.and_append, BitVec.and_append, BitVec.and_zero, BitVec.and_zero]
    rfl
  have hk : fieldK8 (0b1101#4 ++ x ++ k) = k := BitVec.extractLsb'_append_eq_right
  calc decode (0b1101#4 ++ x ++ k)
      = .ok (.retlw (fieldK8 (0b1101#4 ++ x ++ k))) := decode_of_row hrow (beq_iff_eq.2 hfixed)
    _ = .ok (.retlw k) := by rw [hk]

end Sys2Proof

namespace Sys2Proof.Machine

/-! ### Addressing and data memory -/

/-- `BankBits ++ f` as a number (rule R64). -/
theorem State.directAddr_toNat (s : State) (f : FileNum) :
    (s.directAddr f).toNat = 128 * s.bankBit.toNat + f.toNat := by
  have hf : f.toNat < 2 ^ 7 := f.isLt
  rw [State.directAddr, BitVec.toNat_append, ← Nat.shiftLeft_add_eq_or_of_lt hf, Nat.shiftLeft_eq,
    BitVec.toNat_ofBool]
  omega

theorem State.effAddr_of_direct {s : State} {f : FileNum} (h : s.cfg.resolve (s.directAddr f) ≠ .indf) :
    s.effAddr f = s.directAddr f := if_neg h

theorem State.effAddr_of_indf {s : State} {f : FileNum} (h : s.cfg.resolve (s.directAddr f) = .indf) :
    s.effAddr f = s.fsr := if_pos h

/-- Where the operand is `INDF`, its cell is the one `FSR` points at (rules R33, R65). -/
theorem State.cellOf_of_indf {s : State} {f : FileNum} (h : s.cfg.resolve (s.directAddr f) = .indf) :
    s.cellOf f = s.cfg.resolve s.fsr := by
  rw [State.cellOf, State.effAddr_of_indf h]

theorem State.file_eq_readCell (s : State) (f : FileNum) : s.file f = s.readCell (s.cellOf f) := rfl

theorem State.dest_f_eq_writeCell (s : State) (f : FileNum) (v : Byte) :
    s.dest f .f v = s.writeCell (s.cellOf f) v := rfl

theorem State.dest_fsr (s : State) (f : FileNum) (d : Dest) (v : Byte) :
    (s.dest f d v).fsr = if s.writesCell f d .fsr then v else s.fsr := by
  cases d with
  | w => simp [State.dest, State.writesCell]
  | f => simp [State.dest_f_eq_writeCell, State.writesCell]

theorem State.memRead_memWrite (s : State) (a b : DataAddr) (v : Byte) :
    (s.memWrite a v).memRead b = (s.writeCell (s.cfg.resolve a) v).readCell (s.cfg.resolve b) := by
  simp [State.memWrite, State.memRead]

/-- `PCLATH` reads back the low five bits of what was written (rule R34). -/
theorem State.readCell_writeCell_pclath (s : State) (v : Byte) :
    ((s.writeCell .pclath v).readCell .pclath).toNat = v.toNat % 32 := by
  simp only [State.readCell, State.writeCell_pclath, if_true]
  rw [BitVec.toNat_append]
  simp

/-- `STATUS` reads back what was written but for `TO` and `PD` (rule R31). -/
theorem State.readCell_writeCell_status (s : State) (v : Byte) (p : BitNum) :
    getBit ((s.writeCell .status v).readCell .status) p =
      if p = s.cfg.bitTo ∨ p = s.cfg.bitPd then getBit s.status p else getBit v p := by
  simp [State.readCell]

/-- Rows that do not cover an address have no part in what it selects (rule R66). -/
theorem resolveRows_append_of_uncovered {l l' : List MapRow} {a : Nat}
    (h : ∀ r ∈ l, ¬ (r.lo ≤ a ∧ a ≤ r.hi)) : resolveRows (l ++ l') a = resolveRows l' a := by
  induction l with
  | nil => rfl
  | cons r rest ih =>
    obtain ⟨hr, hrest⟩ := List.forall_mem_cons.1 h
    rw [List.cons_append, resolveRows, if_neg hr, ih hrest]

/-- Every row of P-GK before the two general-purpose ones lies in 0x00 to 0x0B or in 0x80 to 0x8B
(93_implementation_defined.md section 3.2). -/
theorem mapPGK_named_rows :
    ∀ r ∈ mapPGK.take 22, r.hi < 0x0C ∨ (0x80 ≤ r.lo ∧ r.hi < 0x8C) := by
  decide

/-- Past the named rows an address selects a general-purpose register, in either bank, or nothing. -/
theorem resolveRows_profilePGK {a : Nat} (h : (0x0C ≤ a ∧ a < 0x80) ∨ 0x8C ≤ a) :
    resolveRows profilePGK.map a =
      if 0x0C ≤ a ∧ a ≤ 0x4F then .gpr (a - 0x0C)
      else if 0x8C ≤ a ∧ a ≤ 0xCF then .gpr (a - 0x8C) else .unimplemented := by
  have huncovered : ∀ r ∈ mapPGK.take 22, ¬ (r.lo ≤ a ∧ a ≤ r.hi) := fun r hr => by
    have := mapPGK_named_rows r hr
    omega
  calc resolveRows profilePGK.map a
      = resolveRows (mapPGK.take 22 ++ mapPGK.drop 22) a := rfl
    _ = resolveRows (mapPGK.drop 22) a := resolveRows_append_of_uncovered huncovered
    _ = _ := by simp [mapPGK, resolveRows, Cell.offset]

/-! ### The returns -/

/-- A return with an entry on the stack (rule R42). -/
theorem State.popReturn_of_stack {s : State} {a : Pc} {rest : List Pc} (h : s.stack = a :: rest)
    (effect : State → State) :
    s.popReturn effect =
      .next (effect { s with stack := rest, stale := s.stale ++ [a], pc := a, cycles := s.cycles + 2 }) := by
  simp [State.popReturn, State.pop, h, State.jump]

/-- A return on an empty stack that wraps (rule R43). -/
theorem State.popReturn_of_wrap {s : State} {a : Pc} {rest : List Pc} (hstack : s.stack = [])
    (hwrap : s.cfg.stackWrap = true) (hstale : s.stale = a :: rest) (effect : State → State) :
    s.popReturn effect =
      .next (effect { s with stale := rest ++ [a], pc := a, cycles := s.cycles + 2 }) := by
  simp [State.popReturn, State.pop, hstack, hwrap, hstale, State.jump]

/-- A return on an empty stack that does not wrap (rule R43). -/
theorem State.popReturn_of_underflow {s : State} (hstack : s.stack = []) (hwrap : s.cfg.stackWrap = false)
    (effect : State → State) : s.popReturn effect = .refused .stackUnderflow := by
  have hpop : s.pop = none := s.pop_eq_none.2 ⟨hstack, .inl hwrap⟩
  simp [State.popReturn, hpop]

/-- The three returns are one pop, each with its own effect: where the pop gives `t`, RETURN adds nothing, RETLW
writes `W`, RETFIE sets `GIE` (rules R197, R198, R199). -/
theorem exec_returns {s t : State} (k : Byte) (hpop : ∀ effect, s.popReturn effect = .next (effect t))
    (hcfg : t.cfg = s.cfg) (hgie : t.gieReg = s.gieReg) :
    exec .ret s = .next t ∧ exec (.retlw k) s = .next { t with w := k } ∧
      ∃ g : Byte, (∀ p, getBit g p = if p = s.cfg.bitGie then true else getBit s.gieReg p) ∧
        exec .retfie s = .next { t with gieReg := g } := by
  refine ⟨hpop id, hpop fun u => { u with w := k }, putBit s.gieReg s.cfg.bitGie true,
    getBit_putBit _ _ _, ?_⟩
  rw [← hcfg, ← hgie]
  exact hpop (·.setGie true)

/-! ### The reset table -/

/-- What a reset makes of `STATUS`: the five flags as given, at distinct positions, every other bit 0
(rules R23, R51). -/
theorem getBit_resetStatus {c : Config} (h : c.wf = true) (cf dcf zf tof pdf : Bool) :
    getBit (resetStatus c cf dcf zf tof pdf) c.bitC = cf ∧
    getBit (resetStatus c cf dcf zf tof pdf) c.bitDc = dcf ∧
    getBit (resetStatus c cf dcf zf tof pdf) c.bitZ = zf ∧
    getBit (resetStatus c cf dcf zf tof pdf) c.bitTo = tof ∧
    getBit (resetStatus c cf dcf zf tof pdf) c.bitPd = pdf ∧
    ∀ p, p ∉ [c.bitC, c.bitDc, c.bitZ, c.bitPd, c.bitTo] →
      getBit (resetStatus c cf dcf zf tof pdf) p = false := by
  have hd := Config.wf_distinct h
  simp only [List.nodup_cons, List.mem_cons, List.not_mem_nil, or_false, not_or] at hd
  obtain ⟨⟨hcdc, hcz, hcpd, hcto⟩, ⟨hdcz, hdcpd, hdcto⟩, ⟨hzpd, hzto⟩, hpdto, -⟩ := hd
  refine ⟨?_, ?_, ?_, ?_, ?_, fun p hp => ?_⟩
  · simp [resetStatus, hcdc, hcz, hcpd, hcto]
  · simp [resetStatus, hdcz, hdcpd, hdcto]
  · simp [resetStatus, hzpd, hzto]
  · simp [resetStatus, Ne.symm hpdto]
  · simp [resetStatus]
  · simp only [List.mem_cons, List.not_mem_nil, or_false, not_or] at hp
    simp [resetStatus, hp]

/-- A reset comes before everything else at its boundary (rule R235). -/
theorem step_of_reset {s : State} {k : ResetKind} (h : s.input.reset = some k) :
    step s = .next (s.takeInput.resetBy s.input.unspecified k) := by
  have haction : s.action = .reset k := by simp [State.action, h]
  rw [step, haction]

end Sys2Proof.Machine

namespace Sys2Proof.Proofs
open Sys2Proof Sys2Proof.Machine

/-- Settles O11: the operand's cell is that of the direct address or, where it is `INDF`, that of `FSR`. -/
theorem effectiveAddressIsDirectOrIndirect : Obligations.EffectiveAddressIsDirectOrIndirect := by
  intro s f d v
  refine ⟨s.directAddr_toNat f, State.effAddr_of_direct, fun hindf => ?_⟩
  have hcell := State.cellOf_of_indf hindf
  refine ⟨State.effAddr_of_indf hindf, fun hself => ?_, fun hother => ?_, fun hfsr => ?_⟩
  · rw [State.file_eq_readCell, State.dest_f_eq_writeCell, hcell, hself]
    exact ⟨rfl, rfl⟩
  · rw [State.dest_fsr, if_neg fun hw => hother (hcell ▸ hw.2)]
  · rw [State.dest_fsr, if_pos ⟨rfl, hcell.trans hfsr⟩]

/-- Settles O12, by the kind of the cell written. -/
theorem memReadAfterMemWrite : Obligations.MemReadAfterMemWrite := by
  intro s a b v
  simp only [State.memRead_memWrite]
  refine ⟨s.readCell_writeCell_other _ _ v, fun hab => ?_⟩
  rw [← hab]
  refine ⟨fun hgpr => ?_, fun hplain => ?_, fun hpclath => ?_, fun hstatus p => ?_, fun hnone => ?_⟩
  · exact s.readCell_writeCell_storage _ v (.inr (.inr (.inr hgpr)))
  · simp only [List.mem_cons, List.not_mem_nil, or_false] at hplain
    exact s.readCell_writeCell_storage _ v (by tauto)
  · rw [hpclath]; exact s.readCell_writeCell_pclath v
  · rw [hstatus]; exact s.readCell_writeCell_status v p
  · rw [State.memWrite, hnone]; exact ⟨rfl, rfl⟩

/-- Settles O35: the three returns are one pop, each with its own effect. -/
theorem returnsPopTheStack : Obligations.ReturnsPopTheStack := by
  intro k s
  refine ⟨rfl, encode_retlw k, fun x => decode_retlw x k, rfl, fun a rest hstack => ?_,
    fun hstack hwrap => ?_⟩
  · exact exec_returns k (State.popReturn_of_stack hstack) rfl rfl
  · have hrefused := State.popReturn_of_underflow hstack hwrap
    exact ⟨hrefused id, hrefused fun u => { u with w := k }, hrefused (·.setGie true)⟩

/-- Settles O36: as O35, the entry coming from the stale ones. -/
theorem emptyStackPopsCircularly : Obligations.EmptyStackPopsCircularly := by
  intro k s a rest hstack hwrap hstale
  exact exec_returns k (State.popReturn_of_wrap hstack hwrap hstale) rfl rfl

/-- Settles O46: the bits of `STATUS` are those of `resetStatus`, every other element stands in the record. -/
theorem powerOnResetMeetsTable : Obligations.PowerOnResetMeetsTable := by
  intro s hwf hreset
  obtain ⟨hc, hdc, hz, hto, hpd, hrest⟩ := getBit_resetStatus hwf s.input.unspecified.c
    s.input.unspecified.dc s.input.unspecified.z true true
  exact ⟨_, step_of_reset hreset, rfl, rfl, rfl, rfl, fitEntries_length _ _, rfl, rfl, rfl, rfl, hto, hpd,
    hrest, rfl, rfl, hc, hdc, hz, rfl, rfl, rfl, rfl, rfl⟩

/-- Settles O13: an address of either general-purpose block passes the rows before and meets its own. -/
theorem profileMapsRegisters : Obligations.ProfileMapsRegisters := by
  refine ⟨by decide, fun a hlo hhi => ⟨?_, ?_⟩, by decide, by decide, by decide⟩
  · rw [Config.resolve, resolveRows_profilePGK (by omega), if_pos ⟨hlo, hhi⟩]
  · have hhigh : (a + 0x80).toNat = a.toNat + 0x80 := by bv_omega
    rw [Config.resolve, resolveRows_profilePGK (by omega), if_neg (by omega), if_pos (by omega), hhigh]
    exact congrArg Cell.gpr (by omega)

/-- Settles O58: the fields of `State.reset`, evaluated. -/
theorem resetHasInvariant : Obligations.ResetHasInvariant where
  config := profileMapsRegisters.1
  ram := rfl
  prog := rfl
  stack := rfl
  watchdog _ := ⟨rfl, rfl⟩
  asleep h := by cases h
  holdoff h := by cases h

/-- Settles O59: the fields of `State.reset`, evaluated. -/
theorem resetStateMeetsTable : Obligations.ResetStateMeetsTable := by
  refine ⟨rfl, rfl, ?_, rfl, ?_, ?_, rfl, rfl, rfl, rfl, rfl, ?_⟩ <;> decide

end Sys2Proof.Proofs
end

section
/-! The fetch with no word to give (rule R62), and what CALL leaves for a RETURN to pop (rules R41, R42,
R196, R197). -/
namespace Sys2Proof.Machine

/-! ### The fetch -/

/-- Where fetches do not wrap, a fetch reads at `pc` (rule R62). -/
theorem State.fetchAddr_of_no_wrap {s : State} (h : s.cfg.fetchWraps = false) : s.fetchAddr = s.pc.toNat := by
  simp [State.fetchAddr, h]

/-- Where fetches wrap, a fetch reads at `pc` modulo `PROG_WORDS` (rule R62, assumption 9). -/
theorem State.fetchAddr_of_wrap {s : State} (h : s.cfg.fetchWraps = true) :
    s.fetchAddr = s.pc.toNat % s.cfg.progWords := by
  simp [State.fetchAddr, h]

/-- The fetch of an address program memory does not implement (rule R62). -/
theorem State.fetch_of_outOfRange {s : State} (h : s.cfg.progWords ≤ s.fetchAddr) : s.fetch = .outOfRange := by
  rw [State.fetch, if_neg (Nat.not_lt.2 h)]

/-- The fetch of an implemented address nothing was loaded to (rule R62, assumption 8). -/
theorem State.fetch_of_noInstruction {s : State} (h : s.fetchAddr < s.cfg.progWords)
    (hnone : ProgMem.read s.prog s.fetchAddr = none) : s.fetch = .noInstruction := by
  rw [State.fetch, if_pos h, hnone]

/-- Using up the boundary's input leaves what a fetch gives: it moves neither `pc` nor the program. -/
@[simp] theorem State.takeInput_fetch (s : State) : s.takeInput.fetch = s.fetch := rfl

/-- A fetch beyond program memory refuses the step (rules R10, R62). -/
theorem step_of_fetch_outOfRange {s : State} (hnext : s.executesNext) (hfetch : s.fetch = .outOfRange) :
    step s = .refused .fetchOutOfRange := by
  rw [step_of_executesNext hnext, State.runInstruction, State.takeInput_fetch, hfetch]

/-- A fetch of no instruction refuses the step (rule R62, assumption 8). -/
theorem step_of_fetch_noInstruction {s : State} (hnext : s.executesNext) (hfetch : s.fetch = .noInstruction) :
    step s = .refused .noInstruction := by
  rw [step_of_executesNext hnext, State.runInstruction, State.takeInput_fetch, hfetch]

/-! ### CALL with room on the stack, RETURN with an entry on it -/

/-- A push on a stack with room (rule R41). -/
theorem State.push_of_room {s : State} (h : s.stack.length < s.cfg.stackDepth) (v : Pc) :
    s.push v = some { s with stack := v :: s.stack, stale := s.stale.dropLast } := by
  rw [State.push, if_pos h]

/-- CALL on a stack with room: the return address is the new top of the stack (rules R41, R196). -/
theorem exec_call_of_room {s : State} (h : s.stack.length < s.cfg.stackDepth) (k : Target) :
    exec (.call k) s = .next { s with
      stack := (s.pc + 1) :: s.stack, stale := s.stale.dropLast, pc := s.target k, cycles := s.cycles + 2 } := by
  change execCall k s = _
  rw [execCall, State.push_of_room h]
  rfl

/-- RETURN with an entry on the stack (rules R42, R197). -/
theorem exec_ret_of_stack {s : State} {a : Pc} {rest : List Pc} (h : s.stack = a :: rest) :
    exec .ret s = .next { s with
      stack := rest, stale := s.stale ++ [a], pc := a, cycles := s.cycles + 2 } :=
  State.popReturn_of_stack h id

end Sys2Proof.Machine

namespace Sys2Proof.Proofs
open Sys2Proof Sys2Proof.Machine

/-- Settles O34: CALL leaves its return address on top of the stack it found, RETURN pops it, and writing `PCLATH`
in between touches no entry. -/
theorem returnAfterCallComesBack : Obligations.ReturnAfterCallComesBack := by
  intro k s p hroom
  exact ⟨_, _, exec_call_of_room hroom k, exec_ret_of_stack rfl, rfl, rfl, rfl⟩

/-- Settles O8, by what the fetch gives: out of range, a wrapped address, or no instruction. -/
theorem fetchOutsideProgramStops : Obligations.FetchOutsideProgramStops := by
  intro s hnext
  refine ⟨fun hwrap hpc => ?_, fun hwrap hpos => ?_, fun haddr hnone => ?_⟩
  · have hout : s.cfg.progWords ≤ s.fetchAddr := State.fetchAddr_of_no_wrap hwrap ▸ hpc
    exact step_of_fetch_outOfRange hnext (State.fetch_of_outOfRange hout)
  · have haddr := State.fetchAddr_of_wrap hwrap
    exact ⟨haddr, haddr ▸ Nat.mod_lt _ hpos⟩
  · exact step_of_fetch_noInstruction hnext (State.fetch_of_noInstruction haddr hnone)

end Sys2Proof.Proofs
end

section
/-! The encoder against the decoder (rules R93 to R101, R108): which words a row of the opcode map reads as which
instruction, and the assembler's operand numbers (rules R92, R102). -/
namespace Sys2Proof
open Sys2Proof.Machine Sys2Proof.Laws

/-! ### Words cut into a high and a low part -/

theorem append_inj_iff {a b : Nat} {x x' : BitVec a} {y y' : BitVec b} :
    x ++ y = x' ++ y' ↔ x = x' ∧ y = y' := by
  constructor
  · intro h
    have hhigh := congrArg (BitVec.extractLsb' b a) h
    have hlow := congrArg (BitVec.extractLsb' 0 b) h
    simp only [BitVec.extractLsb'_append_eq_left, BitVec.extractLsb'_append_eq_right] at hhigh hlow
    exact ⟨hhigh, hlow⟩
  · rintro ⟨rfl, rfl⟩
    rfl

/-- Every word of `a + b` bits is a high part before a low part. -/
theorem exists_eq_append {a b : Nat} (w : BitVec (a + b)) : ∃ (x : BitVec a) (y : BitVec b), w = x ++ y :=
  ⟨_, _, BitVec.extractLsb'_append_extractLsb'.symm⟩

/-- Under a mask that keeps the whole low part, the high part is compared under its own mask and the low part as
it is. -/
theorem and_mask_eq_append_iff {a b : Nat} {x m p : BitVec a} {y k : BitVec b} :
    (x ++ y) &&& (m ++ BitVec.allOnes b) = p ++ k ↔ (x ++ y) &&& (m ++ 0#b) = p ++ 0#b ∧ y = k := by
  simp only [BitVec.and_append, append_inj_iff, BitVec.and_zero, BitVec.and_allOnes, and_true]

/-- As `and_mask_eq_append_iff`, for two low parts. -/
theorem and_mask_eq_append_append_iff {a b c : Nat} {x m p : BitVec a} {y k : BitVec b} {z l : BitVec c} :
    (x ++ y ++ z) &&& (m ++ BitVec.allOnes b ++ BitVec.allOnes c) = p ++ k ++ l ↔
      (x ++ y ++ z) &&& (m ++ 0#b ++ 0#c) = p ++ 0#b ++ 0#c ∧ z = l ∧ y = k := by
  simp only [BitVec.and_append, append_inj_iff, BitVec.and_zero, BitVec.and_allOnes, and_true, and_assoc]
  tauto

/-- Clearing bits that are 0 already. -/
theorem and_not_eq_self {n : Nat} {e g : BitVec n} (h : e &&& g = 0) : e &&& ~~~g = e := by
  calc e &&& ~~~g = (e &&& g) ||| (e &&& ~~~g) := by rw [h]; exact BitVec.zero_or.symm
    _ = e := by rw [← BitVec.and_or_distrib_left, BitVec.or_not_self, BitVec.and_allOnes]

/-! ### The operand fields of a format -/

theorem Dest.bit_inj {d d' : Dest} : d.bit = d'.bit ↔ d = d' := by
  cases d <;> cases d' <;> decide

theorem Dest.exists_bit_eq : ∀ y : BitVec 1, ∃ d : Dest, d.bit = y
  | 0 => ⟨.w, rfl⟩
  | 1 => ⟨.f, rfl⟩

theorem exists_formatF (w : InstrWord) : ∃ op f, w = formatF op f := exists_eq_append (a := 7) (b := 7) w

theorem exists_formatFD (w : InstrWord) : ∃ op d f, w = formatFD op d f := by
  obtain ⟨x, f, rfl⟩ := exists_formatF w
  obtain ⟨op, y, rfl⟩ := exists_eq_append (a := 6) (b := 1) x
  obtain ⟨d, rfl⟩ := Dest.exists_bit_eq y
  exact ⟨op, d, f, rfl⟩

theorem exists_formatFB (w : InstrWord) : ∃ op b f, w = formatFB op b f := by
  obtain ⟨x, f, rfl⟩ := exists_formatF w
  obtain ⟨op, b, rfl⟩ := exists_eq_append (a := 4) (b := 3) x
  exact ⟨op, b, f, rfl⟩

theorem exists_formatK8 (w : InstrWord) : ∃ op k, w = formatK8 op k := exists_eq_append (a := 6) (b := 8) w

theorem exists_formatK11 (w : InstrWord) : ∃ op k, w = formatK11 op k := exists_eq_append (a := 3) (b := 11) w

@[simp] theorem fieldF_formatFD (op : BitVec 6) (d : Dest) (f : FileNum) : fieldF (formatFD op d f) = f :=
  BitVec.extractLsb'_append_eq_right

@[simp] theorem fieldD_formatFD (op : BitVec 6) (d : Dest) (f : FileNum) : fieldD (formatFD op d f) = d := by
  have hbit : (formatFD op d f).getLsbD 7 = d.bit.getLsbD 0 := by
    simp only [formatFD, BitVec.getLsbD_append]
    rfl
  rw [fieldD, hbit]
  cases d <;> rfl

@[simp] theorem fieldF_formatF (op : BitVec 7) (f : FileNum) : fieldF (formatF op f) = f :=
  BitVec.extractLsb'_append_eq_right

@[simp] theorem fieldF_formatFB (op : BitVec 4) (b : BitNum) (f : FileNum) : fieldF (formatFB op b f) = f :=
  BitVec.extractLsb'_append_eq_right

@[simp] theorem fieldB_formatFB (op : BitVec 4) (b : BitNum) (f : FileNum) : fieldB (formatFB op b f) = b := by
  rw [fieldB, formatFB, BitVec.extractLsb'_append_eq_of_le (Nat.le_refl 7)]
  exact BitVec.extractLsb'_append_eq_right

@[simp] theorem fieldK8_formatK8 (op : BitVec 6) (k : Byte) : fieldK8 (formatK8 op k) = k :=
  BitVec.extractLsb'_append_eq_right

@[simp] theorem fieldK11_formatK11 (op : BitVec 3) (k : Target) : fieldK11 (formatK11 op k) = k :=
  BitVec.extractLsb'_append_eq_right

/-! ### The row of an instruction -/

/-- The row of an instruction's own constructor: the opcode map has its rows in the order of rule R2, as `Instr`
has its constructors. -/
def Instr.row (i : Instr) : OpcodeRow := opcodeMap.getD i.ctorIdx ⟨0, 0, fun _ => i⟩

theorem Instr.row_mem (i : Instr) : i.row ∈ opcodeMap := by
  have hindex : i.ctorIdx < opcodeMap.length := by cases i <;> exact of_decide_eq_true rfl
  rw [Instr.row, List.getD_eq_getElem _ _ hindex]
  exact List.getElem_mem hindex

theorem row_of_build {r : OpcodeRow} (hr : r ∈ opcodeMap) (w : InstrWord) : (r.build w).row = r := by
  fin_cases hr <;> rfl

/-- Everything the decoder can answer with (rules R101, R108). -/
theorem decode_cases (w : InstrWord) :
    (∃ r ∈ opcodeMap, r.matches w = true ∧ decode w = .ok (r.build w)) ∨
    ((∀ r ∈ opcodeMap, r.matches w = false) ∧ decode w = .error .unassigned) := by
  unfold decode
  cases hfind : opcodeMap.find? (·.matches w) with
  | some r => exact .inl ⟨r, List.mem_of_find?_eq_some hfind, by simpa using List.find?_some hfind, rfl⟩
  | none => exact .inr ⟨by simpa using List.find?_eq_none.1 hfind, rfl⟩

/-- A word decodes to `i` exactly if `i`'s own row matches it and reads `i`'s operands from it (rule R108). -/
theorem decode_eq_ok_iff_row {w : InstrWord} {i : Instr} :
    decode w = .ok i ↔ i.row.matches w = true ∧ i.row.build w = i := by
  constructor
  · intro h
    obtain ⟨r, hr, hmatch, hok⟩ | ⟨-, herror⟩ := decode_cases w
    · obtain rfl : r.build w = i := Except.ok.inj (hok.symm.trans h)
      rw [row_of_build hr]
      exact ⟨hmatch, rfl⟩
    · cases herror.symm.trans h
  · rintro ⟨hmatch, hbuild⟩
    rw [decode_of_row i.row_mem hmatch, hbuild]

/-! ### The words of a row, by operand form -/

/-- The words that `i`'s row matches and reads as `i` are those that are `i`'s canonical word once the ignored bits
are cleared (rules R99, R100). -/
def RowReadsCanonical (i : Instr) : Prop :=
  ∀ w, i.row.matches w = true ∧ i.row.build w = i ↔ w &&& ~~~ignoredBits i = encode i

/-- Format `FD` (rule R93). -/
theorem rowReadsCanonical_fd {i : Instr} {op : BitVec 6} {d : Dest} {f : FileNum}
    (hcode : encode i = formatFD op d f) (hpattern : i.row.pattern = formatFD op .w 0)
    (hmask : i.row.mask = formatFD 0x3F .w 0) (hignored : ignoredBits i = 0)
    (hbuild : ∀ w, i.row.build w = i ↔ fieldF w = f ∧ fieldD w = d) : RowReadsCanonical i := by
  intro w
  obtain ⟨x, d', f', rfl⟩ := exists_formatFD w
  have hkept : ~~~(0 : InstrWord) = formatFD 0x3F .f 0x7F := by decide
  rw [OpcodeRow.matches, beq_iff_eq, hpattern, hmask, hignored, hkept, hbuild, hcode,
    fieldF_formatFD, fieldD_formatFD, ← Dest.bit_inj]
  exact and_mask_eq_append_append_iff.symm

/-- Format `F` (rule R94). -/
theorem rowReadsCanonical_f {i : Instr} {op : BitVec 7} {f : FileNum}
    (hcode : encode i = formatF op f) (hpattern : i.row.pattern = formatF op 0)
    (hmask : i.row.mask = formatF 0x7F 0) (hignored : ignoredBits i = 0)
    (hbuild : ∀ w, i.row.build w = i ↔ fieldF w = f) : RowReadsCanonical i := by
  intro w
  obtain ⟨x, f', rfl⟩ := exists_formatF w
  have hkept : ~~~(0 : InstrWord) = formatF 0x7F 0x7F := by decide
  rw [OpcodeRow.matches, beq_iff_eq, hpattern, hmask, hignored, hkept, hbuild, hcode, fieldF_formatF]
  exact and_mask_eq_append_iff.symm

/-- Format `FB` (rule R95). -/
theorem rowReadsCanonical_fb {i : Instr} {op : BitVec 4} {b : BitNum} {f : FileNum}
    (hcode : encode i = formatFB op b f) (hpattern : i.row.pattern = formatFB op 0 0)
    (hmask : i.row.mask = formatFB 0xF 0 0) (hignored : ignoredBits i = 0)
    (hbuild : ∀ w, i.row.build w = i ↔ fieldF w = f ∧ fieldB w = b) : RowReadsCanonical i := by
  intro w
  obtain ⟨x, b', f', rfl⟩ := exists_formatFB w
  have hkept : ~~~(0 : InstrWord) = formatFB 0xF 0x7 0x7F := by decide
  rw [OpcodeRow.matches, beq_iff_eq, hpattern, hmask, hignored, hkept, hbuild, hcode,
    fieldF_formatFB, fieldB_formatFB]
  exact and_mask_eq_append_append_iff.symm

/-- Format `K8`; of the opcode of some rows the decoder ignores the bits `g` (rules R96, R100). -/
theorem rowReadsCanonical_k8 {i : Instr} {op : BitVec 6} {k : Byte} (g : BitVec 6)
    (hcode : encode i = formatK8 op k) (hpattern : i.row.pattern = formatK8 op 0)
    (hmask : i.row.mask = formatK8 (~~~g) 0) (hignored : ignoredBits i = formatK8 g 0)
    (hbuild : ∀ w, i.row.build w = i ↔ fieldK8 w = k) : RowReadsCanonical i := by
  intro w
  obtain ⟨x, k', rfl⟩ := exists_formatK8 w
  have hkept : ~~~formatK8 g 0 = formatK8 (~~~g) 0xFF := BitVec.not_append
  rw [OpcodeRow.matches, beq_iff_eq, hpattern, hmask, hignored, hkept, hbuild, hcode, fieldK8_formatK8]
  exact and_mask_eq_append_iff.symm

/-- Format `K11` (rule R97). -/
theorem rowReadsCanonical_k11 {i : Instr} {op : BitVec 3} {k : Target}
    (hcode : encode i = formatK11 op k) (hpattern : i.row.pattern = formatK11 op 0)
    (hmask : i.row.mask = formatK11 0x7 0) (hignored : ignoredBits i = 0)
    (hbuild : ∀ w, i.row.build w = i ↔ fieldK11 w = k) : RowReadsCanonical i := by
  intro w
  obtain ⟨x, k', rfl⟩ := exists_formatK11 w
  have hkept : ~~~(0 : InstrWord) = formatK11 0x7 0x7FF := by decide
  rw [OpcodeRow.matches, beq_iff_eq, hpattern, hmask, hignored, hkept, hbuild, hcode, fieldK11_formatK11]
  exact and_mask_eq_append_iff.symm

/-- No operand: the row fixes every bit that is not ignored (rules R98, R99). -/
theorem rowReadsCanonical_fixed {i : Instr} (hpattern : i.row.pattern = encode i)
    (hmask : i.row.mask = ~~~ignoredBits i) (hbuild : ∀ w, i.row.build w = i) : RowReadsCanonical i := by
  intro w
  rw [OpcodeRow.matches, beq_iff_eq, hpattern, hmask]
  exact and_iff_left (hbuild w)

theorem rowReadsCanonical (i : Instr) : RowReadsCanonical i := by
  cases i with
  | movf f d | swapf f d | addwf f d | subwf f d | andwf f d | iorwf f d | xorwf f d | incf f d | decf f d
  | rlf f d | rrf f d | comf f d | incfsz f d | decfsz f d =>
    exact rowReadsCanonical_fd rfl rfl rfl rfl fun _ =>
      ⟨by rintro ⟨⟩; exact ⟨rfl, rfl⟩, by rintro ⟨rfl, rfl⟩; rfl⟩
  | movwf f | clrf f =>
    exact rowReadsCanonical_f rfl rfl rfl rfl fun _ => ⟨by rintro ⟨⟩; rfl, by rintro rfl; rfl⟩
  | bcf f b | bsf f b | btfsc f b | btfss f b =>
    exact rowReadsCanonical_fb rfl rfl rfl rfl fun _ =>
      ⟨by rintro ⟨⟩; exact ⟨rfl, rfl⟩, by rintro ⟨rfl, rfl⟩; rfl⟩
  | movlw k | retlw k =>
    exact rowReadsCanonical_k8 0b000011 rfl rfl rfl rfl fun _ => ⟨by rintro ⟨⟩; rfl, by rintro rfl; rfl⟩
  | addlw k | sublw k =>
    exact rowReadsCanonical_k8 0b000001 rfl rfl rfl rfl fun _ => ⟨by rintro ⟨⟩; rfl, by rintro rfl; rfl⟩
  | andlw k | iorlw k | xorlw k =>
    exact rowReadsCanonical_k8 0b000000 rfl rfl rfl rfl fun _ => ⟨by rintro ⟨⟩; rfl, by rintro rfl; rfl⟩
  | goto k | call k =>
    exact rowReadsCanonical_k11 rfl rfl rfl rfl fun _ => ⟨by rintro ⟨⟩; rfl, by rintro rfl; rfl⟩
  | clrw | ret | retfie | nop | clrwdt | sleep => exact rowReadsCanonical_fixed rfl rfl fun _ => rfl

theorem encode_and_ignoredBits (i : Instr) : encode i &&& ignoredBits i = 0 := by
  have hrow {j : Instr} (h : RowOf.Statement j) : encode j &&& (RowOf.row j).2.2 = 0 := by
    simp only [RowOf.Statement, Bool.and_eq_true, beq_iff_eq] at h
    exact h.2
  cases i with
  | movlw k => exact hrow (RowOf.movlw k)
  | retlw k => exact hrow (RowOf.retlw k)
  | addlw k => exact hrow (RowOf.addlw k)
  | sublw k => exact hrow (RowOf.sublw k)
  | clrw => exact hrow RowOf.clrw
  | nop => exact hrow RowOf.nop
  | _ => exact BitVec.and_zero

/-- Rule R100, for every word and instruction. -/
theorem decode_eq_ok_iff {w : InstrWord} {i : Instr} :
    decode w = .ok i ↔ w &&& ~~~ignoredBits i = encode i :=
  decode_eq_ok_iff_row.trans (rowReadsCanonical i w)

theorem decode_encode (i : Instr) : decode (encode i) = .ok i :=
  decode_eq_ok_iff.2 (and_not_eq_self (encode_and_ignoredBits i))

/-! ### The unassigned words -/

theorem decode_eq_error_iff {w : InstrWord} :
    decode w = .error .unassigned ↔ ∀ r ∈ opcodeMap, r.matches w = false := by
  obtain ⟨r, hr, hmatch, hok⟩ | ⟨hnone, herror⟩ := decode_cases w
  · simp only [hok, reduceCtorEq, false_iff, not_forall]
    exact ⟨r, hr, by simp [hmatch]⟩
  · exact iff_of_true herror hnone

theorem formatF_and_eq_iff {x m p y n q : BitVec 7} :
    formatF x y &&& formatF m n = formatF p q ↔ x &&& m = p ∧ y &&& n = q := by
  have hand : formatF x y &&& formatF m n = formatF (x &&& m) (y &&& n) := BitVec.and_append
  rw [hand]
  exact append_inj_iff

theorem formatF_toNat (x y : BitVec 7) : (formatF x y).toNat = x.toNat * 128 + y.toNat := by
  have hy : y.toNat < 2 ^ 7 := y.isLt
  rw [formatF, BitVec.toNat_append, ← Nat.shiftLeft_add_eq_or_of_lt hy, Nat.shiftLeft_eq]

/-- A row fixes no bit below bit 7, or it fixes bits 13 to 7 to 0 (rule R99). -/
theorem opcodeMap_low_bits : ∀ r ∈ opcodeMap,
    (r.mask = formatF (r.mask.extractLsb' 7 7) 0 ∧ r.pattern = formatF (r.pattern.extractLsb' 7 7) 0) ∨
    (r.mask = formatF 0x7F (r.mask.extractLsb' 0 7) ∧ r.pattern = formatF 0 (r.pattern.extractLsb' 0 7)) := by
  decide

/-- Above 0x007F bits 6 to 0 of a word do not decide which row it matches. -/
theorem matches_formatF_of_ne_zero {r : OpcodeRow} (hr : r ∈ opcodeMap) {x : BitVec 7} (hx : x ≠ 0)
    (y : BitVec 7) : r.matches (formatF x y) = r.matches (formatF x 0) := by
  rw [Bool.eq_iff_iff, OpcodeRow.matches, OpcodeRow.matches, beq_iff_eq, beq_iff_eq]
  obtain ⟨hmask, hpattern⟩ | ⟨hmask, hpattern⟩ := opcodeMap_low_bits r hr
  · rw [hmask, hpattern, formatF_and_eq_iff, formatF_and_eq_iff]
    simp
  · have hall : x &&& 0x7F = x := BitVec.and_allOnes
    rw [hmask, hpattern, formatF_and_eq_iff, formatF_and_eq_iff, hall]
    simp only [hx, false_and]

/-- Above 0x007F the unassigned words are those of 0x3B00 to 0x3BFF (rule R101). -/
theorem decode_high_eq_error_iff {x : BitVec 7} (hx : x ≠ 0) (y : BitVec 7) :
    decode (formatF x y) = .error .unassigned ↔ x = 0x76 ∨ x = 0x77 := by
  have hfirst : ∀ x : BitVec 7, decode (formatF x 0) = .error .unassigned ↔ x = 0x76 ∨ x = 0x77 := by decide
  rw [← hfirst, decode_eq_error_iff, decode_eq_error_iff]
  exact forall₂_congr fun r hr => by rw [matches_formatF_of_ne_zero hr hx]

/-- Of 0x0000 to 0x007F the eight words of NOP, RETURN, RETFIE, SLEEP and CLRWDT are assigned (rule R101). -/
theorem decode_low_eq_error_iff : ∀ y : BitVec 7, decode (formatF 0 y) = .error .unassigned ↔
    y.toNat ∉ [0x00, 0x20, 0x40, 0x60, 0x08, 0x09, 0x63, 0x64] := by
  decide

/-- Rule R101: the unassigned words. -/
theorem decode_eq_error_iff_listed (w : InstrWord) : decode w = .error .unassigned ↔
    (w.toNat < 0x80 ∧ w.toNat ∉ [0x00, 0x20, 0x40, 0x60, 0x08, 0x09, 0x63, 0x64]) ∨
      (0x3B00 ≤ w.toNat ∧ w.toNat ≤ 0x3BFF) := by
  obtain ⟨x, y, rfl⟩ := exists_formatF w
  have hnat := formatF_toNat x y
  by_cases hx : x = 0
  · subst hx
    have hlow : (formatF 0 y).toNat = y.toNat := by simpa using hnat
    rw [decode_low_eq_error_iff, hlow]
    constructor
    · exact fun hy => .inl ⟨y.isLt, hy⟩
    · rintro (⟨-, hy⟩ | ⟨hy, -⟩)
      · exact hy
      · omega
  · rw [decode_high_eq_error_iff hx]
    have : x.toNat ≠ 0 := fun h => hx (BitVec.eq_of_toNat_eq h)
    bv_omega

/-! ### The assembler -/

@[simp] theorem destOfNat_toNat (d : Dest) : destOfNat d.toNat = d := by
  cases d <;> rfl

theorem Dest.exists_toNat_eq {n : Nat} (h : n ≤ 1) : ∃ d : Dest, d.toNat = n := by
  obtain rfl | rfl : n = 0 ∨ n = 1 := by omega
  · exact ⟨.w, rfl⟩
  · exact ⟨.f, rfl⟩

theorem exists_toNat_eq {w n : Nat} (h : n < 2 ^ w) : ∃ x : BitVec w, x.toNat = n :=
  ⟨BitVec.ofNat w n, by rw [BitVec.toNat_ofNat, Nat.mod_eq_of_lt h]⟩

/-- The operand numbers of each form, each the number of an operand (rule R92). -/
inductive Form.Operands : Form → List Nat → Prop
  | fd (f : FileNum) (d : Dest) : Operands .fd [f.toNat, d.toNat]
  | f (f : FileNum) : Operands .f [f.toNat]
  | fb (f : FileNum) (b : BitNum) : Operands .fb [f.toNat, b.toNat]
  | k8 (k : Byte) : Operands .k8 [k.toNat]
  | k11 (k : Target) : Operands .k11 [k.toNat]
  | none : Operands .none []

/-- The range check admits exactly the numbers of operands (rule R102). -/
theorem Form.inRange_iff {form : Form} {ops : List Nat} : form.inRange ops = true ↔ form.Operands ops := by
  constructor
  · intro h
    unfold Form.inRange at h
    split at h <;> simp only [Bool.and_eq_true, decide_eq_true_eq, reduceCtorEq] at h
    case h_1 x y =>
      obtain ⟨f, rfl⟩ := exists_toNat_eq (w := 7) (n := x) (by omega)
      obtain ⟨d, rfl⟩ := Dest.exists_toNat_eq h.2
      exact .fd f d
    case h_2 x =>
      obtain ⟨f, rfl⟩ := exists_toNat_eq (w := 7) (n := x) (by omega)
      exact .f f
    case h_3 x y =>
      obtain ⟨f, rfl⟩ := exists_toNat_eq (w := 7) (n := x) (by omega)
      obtain ⟨b, rfl⟩ := exists_toNat_eq (w := 3) (n := y) (by omega)
      exact .fb f b
    case h_4 x =>
      obtain ⟨k, rfl⟩ := exists_toNat_eq (w := 8) (n := x) (by omega)
      exact .k8 k
    case h_5 x =>
      obtain ⟨k, rfl⟩ := exists_toNat_eq (w := 11) (n := x) (by omega)
      exact .k11 k
    case h_6 => exact .none
  · intro h
    cases h with
    | fd f d =>
      have hd : d.toNat ≤ 1 := by cases d <;> decide
      simp only [Form.inRange, Bool.and_eq_true, decide_eq_true_eq]
      omega
    | fb f b => simp only [Form.inRange, Bool.and_eq_true, decide_eq_true_eq]; omega
    | f x | k8 x | k11 x => simp only [Form.inRange, decide_eq_true_eq]; omega
    | none => rfl

theorem wellFormed_iff {m : Mnemonic} {ops : List Nat} : wellFormed m ops = true ↔ m.form.Operands ops :=
  Form.inRange_iff

theorem Instr.operands_form (i : Instr) : i.mnemonic.form.Operands i.operands := by
  cases i <;> constructor

theorem instrOf_of_wellFormed {m : Mnemonic} {ops : List Nat} (h : wellFormed m ops = true) :
    ∃ i, instrOf m ops = some i ∧ i.mnemonic = m ∧ i.operands = ops := by
  have hops := wellFormed_iff.1 h
  cases m with
  | movf | swapf | addwf | subwf | andwf | iorwf | xorwf | incf | decf | rlf | rrf | comf | incfsz | decfsz =>
    cases hops with
    | fd f d => exact ⟨_, if_pos h, rfl, by simp [Instr.operands]⟩
  | movwf | clrf =>
    cases hops with
    | f f => exact ⟨_, if_pos h, rfl, by simp [Instr.operands]⟩
  | bcf | bsf | btfsc | btfss =>
    cases hops with
    | fb f b => exact ⟨_, if_pos h, rfl, by simp [Instr.operands]⟩
  | movlw | addlw | sublw | andlw | iorlw | xorlw | retlw =>
    cases hops with
    | k8 k => exact ⟨_, if_pos h, rfl, by simp [Instr.operands]⟩
  | goto | call =>
    cases hops with
    | k11 k => exact ⟨_, if_pos h, rfl, by simp [Instr.operands]⟩
  | clrw | ret | retfie | nop | clrwdt | sleep =>
    cases hops with
    | none => exact ⟨_, if_pos h, rfl, rfl⟩

theorem instrOf_eq_none {m : Mnemonic} {ops : List Nat} (h : wellFormed m ops = false) : instrOf m ops = none :=
  if_neg (by simp [h])

/-- The numbers of an instruction's operands read back as its operands. -/
theorem instrOf_operands (i : Instr) : instrOf i.mnemonic i.operands = some i := by
  have hwf := wellFormed_iff.2 i.operands_form
  rw [instrOf.eq_def, if_pos hwf]
  cases i <;> simp [Instr.mnemonic, Instr.operands]

theorem instrOf_eq_some {m : Mnemonic} {ops : List Nat} {i : Instr} (h : instrOf m ops = some i) :
    i.mnemonic = m ∧ i.operands = ops := by
  cases hwf : wellFormed m ops with
  | false => cases (instrOf_eq_none hwf).symm.trans h
  | true =>
    obtain ⟨j, hj, hm, hops⟩ := instrOf_of_wellFormed hwf
    obtain rfl : j = i := Option.some.inj (hj.symm.trans h)
    exact ⟨hm, hops⟩

end Sys2Proof

namespace Sys2Proof.Machine

/-- The fetch of an unassigned word refuses the step (rules R10, R101). -/
theorem step_of_unassigned {s : State} {w : InstrWord} (hnext : s.executesNext) (hword : s.holdsAtPc w)
    (hdecode : decode w = .error .unassigned) : step s = .refused .illegalInstruction := by
  rw [step_of_executesNext hnext, State.runInstruction, State.takeInput_fetch, State.fetch_of_holdsAtPc hword]
  dsimp only
  rw [hdecode]

end Sys2Proof.Machine

namespace Sys2Proof.Proofs
open Sys2Proof Sys2Proof.Machine

/-- Settles O1: the canonical word has its ignored bits 0, so clearing them leaves the word that decodes to `i`. -/
theorem decodeInvertsEncode : Obligations.DecodeInvertsEncode := decode_encode

/-- Settles O2: above 0x007F a word's first seven bits decide, below it the last seven. -/
theorem unassignedWordsAreRefused : Obligations.UnassignedWordsAreRefused :=
  ⟨decode_eq_error_iff_listed, fun _ _ => step_of_unassigned⟩

/-- Settles O3: any two rows fix some common bit differently. -/
theorem opcodeRowsAreDisjoint : Obligations.OpcodeRowsAreDisjoint := by
  refine ⟨rfl, opcodeMap_disjoint.imp fun hdisjoint w => ?_⟩
  rintro ⟨ha, hb⟩
  exact Bool.false_ne_true ((hdisjoint.not_matches hb).symm.trans ha)

/-- Settles O4, by the operand form of the instruction. -/
theorem decodeIgnoresExactlyTheIgnoredBits : Obligations.DecodeIgnoresExactlyTheIgnoredBits :=
  fun _ i => ⟨encode_and_ignoredBits i, decode_eq_ok_iff⟩

/-- Settles O6: the range check admits exactly the numbers of operands, and these read back as the operands. -/
theorem assemblerAcceptsExactlyOperandsInRange : Obligations.AssemblerAcceptsExactlyOperandsInRange :=
  ⟨instrOf_operands, fun _ _ _ => instrOf_eq_some, fun _ _ => instrOf_eq_none⟩

/-- Settles O5: each word, its ignored bits cleared, is the canonical word of the instruction listed. -/
theorem listedWordsDecode : Obligations.ListedWordsDecode := by
  refine ⟨?_, ?_, ?_, ?_, ?_, ?_, ?_, ?_, ?_, ?_, ?_, ?_⟩ <;> exact decode_eq_ok_iff.2 (by decide)

end Sys2Proof.Proofs
end

section
/-! The data transfer instructions (40_data_transfer.md). The rules before them serve every instruction of the same
shape: the words of format `K8`, `W` and flags alone (`plainFrame_literal`), a destination operand
(`storesResult_complete`). -/
namespace Sys2Proof

/-! ### The words of format K8 -/

/-- The opcode in place and the literal below it (rule R96). -/
theorem formatK8_eq_or (op : BitVec 6) (k : Byte) : formatK8 op k = (op ++ 0#8) ||| k.setWidth 14 := by
  rw [formatK8, BitVec.append_def, BitVec.append_def]
  simp

/-- An opcode that differs from the canonical one in ignored bits alone (rule R100). -/
theorem decode_formatK8 {i : Instr} {op x : BitVec 6} {k : Byte} (g : BitVec 6) (hcode : encode i = formatK8 op k)
    (hignored : Machine.ignoredBits i = formatK8 g 0) (hop : x &&& ~~~g = op) : decode (formatK8 x k) = .ok i := by
  rw [decode_eq_ok_iff, hcode, hignored, ← hop]
  have hkept : ~~~formatK8 g 0 = formatK8 (~~~g) (BitVec.allOnes 8) := BitVec.not_append
  calc formatK8 x k &&& ~~~formatK8 g 0
      = formatK8 (x &&& ~~~g) (k &&& BitVec.allOnes 8) := by rw [hkept]; exact BitVec.and_append
    _ = formatK8 (x &&& ~~~g) k := by rw [BitVec.and_allOnes]

end Sys2Proof

namespace Sys2Proof.Machine

/-! ### Instructions that write `W` and flags alone -/

/-- `W`, then the named flags, then `pc + 1` (rules R9, R29). -/
theorem plainFrame_literal {s : State} {named : List BitNum} {g : State → State} (w : Byte)
    (hg : FlagUpdate s.cfg named g) : PlainFrame s (g { s with w := w }).advance named := by
  have hbits := hg.bits { s with w := w }
  rw [hg.only]
  exact ⟨rfl, fun p hp => hbits p rfl hp⟩

/-! ### Instructions with a destination operand -/

/-- An instruction that ends in `complete`, from the state `s` itself or from `s` once its register was read
(rules R8, R70, R71). -/
theorem storesResult_complete {i : Instr} {s s' : State} {f : FileNum} {d : Dest} {v : Byte} {named : List BitNum}
    {g : State → State} {P : State → Prop} (hexec : exec i s = .next (s'.complete f d v g))
    (hg : FlagUpdate s.cfg named g) (hs : ∃ m, s' = { s with freeIx := m }) (hP : P (s'.complete f d v g)) :
    StoresResult i s f d v named P := by
  obtain ⟨frame, ends, -⟩ := complete_spec (f := f) (d := d) (v := v) hg hs
  exact ⟨_, hexec, frame, ends, hP⟩

/-- An instruction that reads its register and names `Z` alone, for its result (rule R24). -/
theorem storesResult_setZOf {i : Instr} {s : State} {f : FileNum} {d : Dest} {v : Byte}
    (hexec : exec i s = .next ((s.afterRead f).complete f d v (·.setZOf v))) :
    StoresResult i s f d v [s.cfg.bitZ] fun t => t.flagZ = decide (v = 0) :=
  storesResult_complete hexec (flagUpdate_setZOf _ v) (s.afterRead_eq f)
    ((complete_flagZ _ f d v (v == 0)).trans (beq_eq_decide v 0))

/-- `STATUS` once it is cleared as a file register and `Z` set (rules R31, R124). -/
theorem DestFrame.status_of_cleared {s t : State} {f : FileNum} (frame : DestFrame s t f .f 0 [s.cfg.bitZ])
    (hz : t.flagZ = true) (hcell : s.cellOf f = .status) (p : BitNum) :
    getBit t.status p =
      if p = s.cfg.bitZ then true
      else if p = s.cfg.bitTo ∨ p = s.cfg.bitPd then getBit s.status p else false := by
  obtain ⟨-, -, hcfg, -⟩ := frame.rest
  split
  · next hp => rwa [State.flagZ, hcfg, ← hp] at hz
  · next hp =>
    rw [frame.status p (by simpa using hp)]
    by_cases hheld : p = s.cfg.bitTo ∨ p = s.cfg.bitPd
    · rw [if_pos hheld, if_neg fun ⟨_, hto, hpd⟩ => hheld.elim hto hpd]
    · rw [if_neg hheld, if_pos ⟨⟨rfl, hcell⟩, not_or.1 hheld⟩]
      exact getBit_zero p

/-- The two hexadecimal digits exchanged (rule R125). -/
theorem swapNibbles_toNat (v : Byte) : (swapNibbles v).toNat = 16 * (v.toNat % 16) + v.toNat / 16 := by
  have hv : v.toNat < 2 ^ 8 := v.isLt
  have hlow : (lowNibble v).toNat = v.toNat % 16 := by simp [lowNibble]
  have hhigh : (highNibble v).toNat = v.toNat / 16 := by
    simp only [highNibble, BitVec.extractLsb'_toNat, Nat.shiftRight_eq_div_pow]
    omega
  rw [swapNibbles, BitVec.toNat_append, ← Nat.shiftLeft_add_eq_or_of_lt (highNibble v).isLt, Nat.shiftLeft_eq,
    hlow, hhigh]
  omega

end Sys2Proof.Machine

namespace Sys2Proof.Proofs
open Sys2Proof Sys2Proof.Machine

/-- Settles O15: MOVWF ends with `W` in its register, from the state as it was, no read before. -/
theorem movwfStoresW : Obligations.MovwfStoresW := fun f s =>
  storesResult_complete rfl (flagUpdate_id _) ⟨_, rfl⟩ (complete_freeIx s f .f s.w fun _ => rfl)

/-- Settles O16: the byte stored and tested is the one the register gave. -/
theorem movfCopiesRegister : Obligations.MovfCopiesRegister := fun _ _ _ => storesResult_setZOf rfl

/-- Settles O18: what becomes of `STATUS` is the frame's clause for a cleared `STATUS`, but for `Z`. -/
theorem clrfClearsRegister : Obligations.ClrfClearsRegister := by
  intro f s
  have hz := complete_flagZ s f .f 0 true
  have hg := flagUpdate_setZ s.cfg true
  obtain ⟨frame, -, -⟩ := complete_spec (s := s) (f := f) (d := .f) (v := 0) hg ⟨_, rfl⟩
  have hfree := complete_freeIx s f .f 0 (g := (·.setZ true)) fun _ => rfl
  exact storesResult_complete rfl hg ⟨_, rfl⟩ ⟨hz, hfree, frame.status_of_cleared hz⟩

/-- Settles O19: the byte stored is the register's value with its hexadecimal digits exchanged. -/
theorem swapfExchangesNibbles : Obligations.SwapfExchangesNibbles := fun f _ s =>
  ⟨swapNibbles (s.file f), swapNibbles_toNat _,
    storesResult_complete rfl (flagUpdate_id _) (s.afterRead_eq f) trivial⟩

/-- Settles O14: the two bits below the opcode's `1100` are the ignored ones, and the literal goes to `W`. -/
theorem movlwLoadsLiteral : Obligations.MovlwLoadsLiteral := by
  intro k s
  have hop : ∀ x : BitVec 2, (0b1100#4 ++ x) &&& ~~~0b000011#6 = 0b110000#6 := by decide
  exact ⟨formatK8_eq_or _ k, fun x => decode_formatK8 0b000011 rfl rfl (hop x),
    _, rfl, rfl, plainFrame_literal k (flagUpdate_id _)⟩

/-- Settles O17: the seven bits below the opcode are the ignored ones, and `W` and `Z` alone are written. -/
theorem clrwClearsW : Obligations.ClrwClearsW := by
  intro s
  refine ⟨rfl, fun x => ?_, _, rfl, rfl, ?_, plainFrame_literal 0 (flagUpdate_setZ _ true)⟩
  · have hcleared : formatF 0b0000010 x &&& formatF 0x7F 0 = formatF 0b0000010 0 :=
      formatF_and_eq_iff.2 ⟨rfl, BitVec.and_zero⟩
    exact decode_eq_ok_iff.2 hcleared
  · simp [State.flagZ]

end Sys2Proof.Proofs
end

section
/-! The arithmetic and logic instructions (41_arithmetic_logic.md): `Add8` and `Sub8` as arithmetic of numbers (rules
R155, R156), the rotates through carry as numbers and as inverses of each other (rules R152, R153), and what the three
shared ends of these instructions leave (`literalArith`, `literalLogic`, `complete` with `C`, `DC`, `Z` or with `C`). -/
namespace Sys2Proof.Machine

/-! ### `Add8` and `Sub8` -/

theorem lowNibble_toNat (v : Byte) : (lowNibble v).toNat = v.toNat % 16 := by
  simp [lowNibble]

/-- Two bytes and a carry never overflow nine bits. -/
theorem sum9_toNat (a b : Byte) (cin : Bool) : (sum9 a b cin).toNat = a.toNat + b.toNat + cin.toNat := by
  have hcin := cin.toNat_le
  simp only [sum9, BitVec.toNat_add, BitVec.toNat_setWidth, BitVec.toNat_ofBool]
  omega

/-- Two nibbles and a carry never overflow five bits. -/
theorem sum5_toNat (a b : Byte) (cin : Bool) :
    (sum5 a b cin).toNat = a.toNat % 16 + b.toNat % 16 + cin.toNat := by
  have hcin := cin.toNat_le
  simp only [sum5, BitVec.toNat_add, BitVec.toNat_setWidth, BitVec.toNat_ofBool, lowNibble_toNat]
  omega

theorem aluOf_r_toNat (x : BitVec 9) (n : BitVec 5) : (aluOf x n).r.toNat = x.toNat % 256 := by
  simp [aluOf]

theorem aluOf_c (x : BitVec 9) (n : BitVec 5) : (aluOf x n).c = decide (256 ≤ x.toNat) :=
  x.msb_eq_decide

theorem aluOf_dc (x : BitVec 9) (n : BitVec 5) : (aluOf x n).dc = decide (16 ≤ n.toNat) :=
  n.msb_eq_decide

theorem aluOf_z (x : BitVec 9) (n : BitVec 5) : (aluOf x n).z = decide ((aluOf x n).r = 0) :=
  beq_eq_decide _ _

theorem add8_r_toNat (a b : Byte) : (add8 a b).r.toNat = (a.toNat + b.toNat) % 256 := by
  rw [add8, aluOf_r_toNat, sum9_toNat]
  rfl

theorem add8_r (a b : Byte) : (add8 a b).r = BitVec.ofNat 8 (a.toNat + b.toNat) :=
  BitVec.eq_of_toNat_eq (add8_r_toNat a b)

theorem add8_c (a b : Byte) : (add8 a b).c = decide (256 ≤ a.toNat + b.toNat) := by
  rw [add8, aluOf_c, sum9_toNat]
  rfl

theorem add8_dc (a b : Byte) : (add8 a b).dc = decide (16 ≤ a.toNat % 16 + b.toNat % 16) := by
  rw [add8, aluOf_dc, sum5_toNat]
  rfl

theorem add8_z (a b : Byte) : (add8 a b).z = decide ((add8 a b).r = 0) := aluOf_z _ _

theorem add8_comm (a b : Byte) : add8 a b = add8 b a := by
  have h9 : sum9 a b false = sum9 b a false := congrArg (· + _) (BitVec.add_comm _ _)
  have h5 : sum5 a b false = sum5 b a false := congrArg (· + _) (BitVec.add_comm _ _)
  rw [add8, h9, h5, add8]

/-- `~~~s` is `255 - s`, so with the carry in the sum adds `256 - s` (rule R156). -/
theorem sub8_sum9_toNat (m s : Byte) : (sum9 m (~~~s) true).toNat = m.toNat + (256 - s.toNat) := by
  rw [sum9_toNat, BitVec.toNat_not, Bool.toNat_true]
  omega

/-- As `sub8_sum9_toNat`, for the low nibbles. -/
theorem sub8_sum5_toNat (m s : Byte) : (sum5 m (~~~s) true).toNat = m.toNat % 16 + (16 - s.toNat % 16) := by
  rw [sum5_toNat, BitVec.toNat_not, Bool.toNat_true]
  omega

theorem sub8_r (m s : Byte) : (sub8 m s).r = m - s := by
  apply BitVec.eq_of_toNat_eq
  rw [sub8, aluOf_r_toNat, sub8_sum9_toNat, BitVec.toNat_sub, Nat.add_comm]

/-- `C` after a subtraction is no borrow (rule R156). -/
theorem sub8_c (m s : Byte) : (sub8 m s).c = decide (s.toNat ≤ m.toNat) := by
  rw [sub8, aluOf_c, sub8_sum9_toNat, decide_eq_decide]
  omega

theorem sub8_dc (m s : Byte) : (sub8 m s).dc = decide (s.toNat % 16 ≤ m.toNat % 16) := by
  rw [sub8, aluOf_dc, sub8_sum5_toNat, decide_eq_decide]
  omega

theorem sub8_z (m s : Byte) : (sub8 m s).z = decide (m = s) := by
  have hz : (sub8 m s).z = decide ((sub8 m s).r = 0) := aluOf_z _ _
  rw [hz, sub8_r, decide_eq_decide]
  exact sub_eq_zero

/-! ### The rotates -/

theorem getBit_seven (v : Byte) : getBit v 7 = decide (128 ≤ v.toNat) := v.msb_eq_decide

theorem getBit_zero_eq_odd (v : Byte) : getBit v 0 = decide (v.toNat % 2 = 1) := Nat.testBit_zero _

/-- The low seven bits move up and the carry comes in below (rule R152). -/
theorem rotateLeft_eq_ofNat (v : Byte) (c : Bool) : rotateLeft v c = BitVec.ofNat 8 (2 * v.toNat + c.toNat) := by
  have hc : c.toNat < 2 ^ 1 := c.toNat_lt
  apply BitVec.eq_of_toNat_eq
  rw [rotateLeft, BitVec.toNat_append, BitVec.toNat_ofBool, ← Nat.shiftLeft_add_eq_or_of_lt hc, Nat.shiftLeft_eq,
    BitVec.extractLsb'_toNat, Nat.shiftRight_zero, BitVec.toNat_ofNat]
  omega

/-- The high seven bits move down and the carry comes in above (rule R153). -/
theorem rotateRight_eq_ofNat (v : Byte) (c : Bool) :
    rotateRight v c = BitVec.ofNat 8 (128 * c.toNat + v.toNat / 2) := by
  have hc := c.toNat_le
  have hlt : v.toNat / 2 < 2 ^ 7 := by omega
  have hv : (v.extractLsb' 1 7).toNat = v.toNat / 2 := by
    rw [BitVec.extractLsb'_toNat, Nat.shiftRight_eq_div_pow]
    exact Nat.mod_eq_of_lt hlt
  apply BitVec.eq_of_toNat_eq
  rw [rotateRight, BitVec.toNat_append, BitVec.toNat_ofBool, hv, ← Nat.shiftLeft_add_eq_or_of_lt hlt,
    Nat.shiftLeft_eq, BitVec.toNat_ofNat]
  omega

/-- The bit RLF moves out is the one RRF moves back in (rule R153). -/
theorem rotateRight_rotateLeft (v : Byte) (c : Bool) : rotateRight (rotateLeft v c) (getBit v 7) = v := by
  have hc := c.toNat_le
  apply BitVec.eq_of_toNat_eq
  rw [rotateRight_eq_ofNat, rotateLeft_eq_ofNat, getBit_seven]
  simp only [BitVec.toNat_ofNat]
  by_cases hv : 128 ≤ v.toNat
  · simp only [hv, decide_true, Bool.toNat_true]; omega
  · simp only [hv, decide_false, Bool.toNat_false]; omega

/-- The bit RLF moved in is the one RRF moves out (rule R153). -/
theorem getBit_rotateLeft_zero (v : Byte) (c : Bool) : getBit (rotateLeft v c) 0 = c := by
  rw [rotateLeft_eq_ofNat, getBit_zero_eq_odd]
  cases c <;> simp

/-! ### The ends of the instructions -/

/-- `W`, then `C`, `DC`, `Z`, at distinct positions (rules R23, R140, R142). -/
theorem literalArith_spec {s : State} (h : s.cfg.wf = true) (a : AluResult) :
    let t := s.literalArith a
    t.w = a.r ∧ t.flagC = a.c ∧ t.flagDc = a.dc ∧ t.flagZ = a.z ∧
      PlainFrame s t [s.cfg.bitC, s.cfg.bitDc, s.cfg.bitZ] := by
  obtain ⟨hc, hdc, hz⟩ := flags_setCDcZ (s := { s with w := a.r }) h a
  exact ⟨rfl, hc, hdc, hz, plainFrame_literal (g := (·.setCDcZ a)) a.r (flagUpdate_setCDcZ _ a)⟩

/-- `W`, then `Z` for the byte it got (rules R144, R146, R148). -/
theorem literalLogic_spec (s : State) (r : Byte) :
    let t := s.literalLogic r
    t.w = r ∧ t.flagZ = decide (r = 0) ∧ PlainFrame s t [s.cfg.bitZ] := by
  refine ⟨rfl, ?_, plainFrame_literal (g := (·.setZOf r)) r (flagUpdate_setZOf _ r)⟩
  simp [State.literalLogic, State.flagZ, beq_eq_decide]

theorem StoresResult.imp {i : Instr} {s : State} {f : FileNum} {d : Dest} {v : Byte} {named : List BitNum}
    {P Q : State → Prop} (h : StoresResult i s f d v named P) (hPQ : ∀ t, P t → Q t) :
    StoresResult i s f d v named Q := by
  obtain ⟨t, hexec, frame, ends, hP⟩ := h
  exact ⟨t, hexec, frame, ends, hPQ t hP⟩

/-- A register instruction that names `C`, `DC`, `Z`, for the result `a` (rules R141, R143). -/
theorem storesResult_setCDcZ {i : Instr} {s : State} {f : FileNum} {d : Dest} {a : AluResult}
    (hwf : s.cfg.wf = true) (hexec : exec i s = .next (s.fileArith f d a)) :
    StoresResult i s f d a.r [s.cfg.bitC, s.cfg.bitDc, s.cfg.bitZ] fun t =>
      t.flagC = a.c ∧ t.flagDc = a.dc ∧ t.flagZ = a.z := by
  have hwf' : (s.afterRead f).cfg.wf = true := by rwa [State.afterRead_cfg]
  exact storesResult_complete hexec (flagUpdate_setCDcZ _ a) (s.afterRead_eq f)
    (complete_flags_setCDcZ hwf' f d a.r a)

/-- A rotate (rules R152, R153). -/
theorem storesResult_setC {i : Instr} {s : State} {f : FileNum} {d : Dest} {r : Byte} {c : Bool}
    (hexec : exec i s = .next (s.fileRotate f d r c)) :
    StoresResult i s f d r [s.cfg.bitC] fun t => t.flagC = c :=
  storesResult_complete hexec (flagUpdate_setC _ c) (s.afterRead_eq f) (complete_flagC _ f d r c)

theorem storesResult_rlf (f : FileNum) (d : Dest) (s : State) :
    StoresResult (.rlf f d) s f d (rotateLeft (s.file f) s.flagC) [s.cfg.bitC] fun t =>
      t.flagC = getBit (s.file f) 7 :=
  storesResult_setC rfl

theorem storesResult_rrf (f : FileNum) (d : Dest) (s : State) :
    StoresResult (.rrf f d) s f d (rotateRight (s.file f) s.flagC) [s.cfg.bitC] fun t =>
      t.flagC = getBit (s.file f) 0 :=
  storesResult_setC rfl

/-! ### A general-purpose register as destination -/

section
variable {s t : State} {f : FileNum} {v : Byte} {named : List BitNum} {n : Nat}

/-- The frame where the destination is general-purpose register `n`: it alone is written, and of `STATUS` the named
bits alone can change (rules R29, R49). -/
theorem DestFrame.of_gpr (frame : DestFrame s t f .f v named) (hcell : s.cellOf f = .gpr n) :
    t.w = s.w ∧ t.fsr = s.fsr ∧ (∀ p, p ∉ named → getBit t.status p = getBit s.status p) ∧
      ∀ k, Memory.read t.ram k = if n = k then v else Memory.read s.ram k := by
  obtain ⟨hw, hfsr, hstatus, -, -, -, hram, -⟩ := frame
  simp only [State.writesCell, hcell, reduceCtorEq, and_false, false_and, if_false] at hw hfsr hstatus
  refine ⟨hw, hfsr, hstatus, fun k => ?_⟩
  rw [hram]
  simp [State.writesCell, hcell]

/-- What an operand selects depends on the parameters, the bank bit and `FSR` alone (rules R64, R65). -/
theorem State.cellOf_congr (hcfg : t.cfg = s.cfg) (hbank : t.bankBit = s.bankBit) (hfsr : t.fsr = s.fsr) :
    t.cellOf f = s.cellOf f := by
  have hdirect : t.directAddr f = s.directAddr f := by rw [State.directAddr, State.directAddr, hbank]
  rw [State.cellOf, State.effAddr, hcfg, hdirect, hfsr]
  rfl

/-- A write to a general-purpose register that names only `C` leaves a bank bit that is a constant or another bit
of `STATUS` (rule R64), so the operand selects the same register after it. -/
theorem DestFrame.cellOf_of_gpr (frame : DestFrame s t f .f v [s.cfg.bitC]) (hcell : s.cellOf f = .gpr n)
    (hbank : (∃ b, s.cfg.bank = .fixed b) ∨ ∃ p, p ≠ s.cfg.bitC ∧ s.cfg.bank = .statusBit p) :
    t.cellOf f = .gpr n := by
  obtain ⟨-, hfsr, hstatus, -⟩ := frame.of_gpr hcell
  have hcfg := frame.sameSetting.cfg
  rw [← hcell]
  refine State.cellOf_congr hcfg ?_ hfsr
  obtain ⟨b, hfixed⟩ | ⟨p, hp, hbit⟩ := hbank
  · rw [State.bankBit_of_fixed hfixed, State.bankBit_of_fixed (hcfg ▸ hfixed)]
  · rw [State.bankBit_of_statusBit hbit, State.bankBit_of_statusBit (hcfg ▸ hbit), hstatus p (by simpa using hp)]

theorem State.file_of_gpr (hcell : s.cellOf f = .gpr n) : s.file f = Memory.read s.ram n := by
  rw [State.file_eq_readCell, hcell]
  rfl

end

end Sys2Proof.Machine

namespace Sys2Proof.Proofs
open Sys2Proof Sys2Proof.Machine

/-- Settles O9: the sums fit nine and five bits, so the top bit of each is the carry. -/
theorem add8IsUnsignedAdditionWithCarries : Obligations.Add8IsUnsignedAdditionWithCarries := fun a b =>
  ⟨add8_r_toNat a b, add8_c a b, add8_dc a b, add8_z a b, add8_comm a b⟩

/-- Settles O10: `m + (256 - s)` carries exactly where nothing is borrowed. -/
theorem sub8IsUnsignedSubtractionWithNoBorrow : Obligations.Sub8IsUnsignedSubtractionWithNoBorrow := fun m s =>
  ⟨sub8_r m s, sub8_c m s, sub8_dc m s, sub8_z m s⟩

/-- Settles O20: the bit below the opcode's `11111` is the ignored one, and `W` and the flags are those of `Add8`. -/
theorem addlwAddsLiteral : Obligations.AddlwAddsLiteral := by
  intro k s
  have hop : ∀ x : BitVec 1, (0b11111#5 ++ x) &&& ~~~0b000001#6 = 0b111110#6 := by decide
  refine ⟨formatK8_eq_or _ k, fun x => decode_formatK8 0b000001 rfl rfl (hop x), fun hwf => ?_⟩
  obtain ⟨hw, hc, hdc, hz, frame⟩ := literalArith_spec hwf (add8 s.w k)
  refine ⟨_, rfl, ?_, hc.trans (add8_c s.w k), hdc.trans (add8_dc s.w k), ?_, frame⟩
  · rw [hw, add8_r_toNat]
  · rw [hz, hw, add8_z]

/-- Settles O22: as O20, with `Sub8` of the literal and `W`. -/
theorem sublwSubtractsFromLiteral : Obligations.SublwSubtractsFromLiteral := by
  intro k s
  have hop : ∀ x : BitVec 1, (0b11110#5 ++ x) &&& ~~~0b000001#6 = 0b111100#6 := by decide
  refine ⟨formatK8_eq_or _ k, fun x => decode_formatK8 0b000001 rfl rfl (hop x), fun hwf => ?_⟩
  obtain ⟨hw, hc, hdc, hz, frame⟩ := literalArith_spec hwf (sub8 k s.w)
  exact ⟨_, rfl, hw.trans (sub8_r k s.w), hc.trans (sub8_c k s.w), hdc.trans (sub8_dc k s.w),
    hz.trans (sub8_z k s.w), frame⟩

/-- Settles O21: the byte stored and the flags are those of `Add8`, which sees the register's value. -/
theorem addwfAddsRegister : Obligations.AddwfAddsRegister := by
  intro f d s hwf
  have h : StoresResult (.addwf f d) s f d (add8 s.w (s.file f)).r _ _ := storesResult_setCDcZ hwf rfl
  rw [← add8_r]
  refine h.imp fun t ⟨hc, hdc, hz⟩ => ⟨hc.trans (add8_c _ _), hdc.trans (add8_dc _ _), ?_⟩
  rw [hz, add8_z, ← add8_r_toNat, decide_eq_decide]
  exact BitVec.toNat_inj.symm

/-- Settles O23: as O21, with `Sub8` of the register and `W`. -/
theorem subwfSubtractsFromRegister : Obligations.SubwfSubtractsFromRegister := by
  intro f d s hwf
  have h : StoresResult (.subwf f d) s f d (sub8 (s.file f) s.w).r _ _ := storesResult_setCDcZ hwf rfl
  rw [← sub8_r]
  exact h.imp fun t ⟨hc, hdc, hz⟩ => ⟨hc.trans (sub8_c _ _), hdc.trans (sub8_dc _ _), hz.trans (sub8_z _ _)⟩

/-- Settles O24: `Z` is that of the byte `W` got; OR is zero where both operands are, XOR where they are equal. -/
theorem literalLogicWritesWAndZ : Obligations.LiteralLogicWritesWAndZ := by
  intro k s
  have hor : decide (s.w ||| k = 0) = decide (s.w = 0 ∧ k = 0) := decide_eq_decide.2 BitVec.or_eq_zero_iff
  have hxor : decide (s.w ^^^ k = 0) = decide (s.w = k) := decide_eq_decide.2 BitVec.xor_eq_zero_iff
  refine ⟨⟨formatK8_eq_or _ k, _, rfl, literalLogic_spec s _⟩, ⟨formatK8_eq_or _ k, _, rfl, ?_⟩,
    formatK8_eq_or _ k, _, rfl, ?_⟩
  · exact hor ▸ literalLogic_spec s (s.w ||| k)
  · exact hxor ▸ literalLogic_spec s (s.w ^^^ k)

/-- Settles O25: as O24, for the register's value; the complement of `v` is `255 - v`. -/
theorem registerLogicWritesResultAndZ : Obligations.RegisterLogicWritesResultAndZ := by
  intro f d s
  have hor : decide (s.w ||| s.file f = 0) = decide (s.w = 0 ∧ s.file f = 0) :=
    decide_eq_decide.2 BitVec.or_eq_zero_iff
  have hxor : decide (s.w ^^^ s.file f = 0) = decide (s.w = s.file f) := decide_eq_decide.2 BitVec.xor_eq_zero_iff
  have hnot : BitVec.ofNat 8 (255 - (s.file f).toNat) = ~~~s.file f := by bv_omega
  have hones : decide (~~~s.file f = 0) = decide ((s.file f).toNat = 255) := decide_eq_decide.2 (by bv_omega)
  rw [← hor, ← hxor, ← hones, hnot]
  exact ⟨storesResult_setZOf rfl, storesResult_setZOf rfl, storesResult_setZOf rfl, storesResult_setZOf rfl⟩

/-- Settles O26: `v + 1` is zero at 255, and `v - 1`, which is `v + 255` modulo 256, at 1. -/
theorem incfDecfWriteZOnly : Obligations.IncfDecfWriteZOnly := by
  intro f d s
  have hinc : BitVec.ofNat 8 ((s.file f).toNat + 1) = s.file f + 1 := by bv_omega
  have hdec : BitVec.ofNat 8 ((s.file f).toNat + 255) = s.file f - 1 := by bv_omega
  have hincz : decide (s.file f + 1 = 0) = decide ((s.file f).toNat = 255) := decide_eq_decide.2 (by bv_omega)
  have hdecz : decide (s.file f - 1 = 0) = decide ((s.file f).toNat = 1) := decide_eq_decide.2 (by bv_omega)
  rw [← hincz, ← hdecz, hinc, hdec]
  exact ⟨storesResult_setZOf rfl, storesResult_setZOf rfl⟩

/-- Settles O27: the nine bits of register and carry as numbers. -/
theorem rotatesGoThroughCarry : Obligations.RotatesGoThroughCarry := by
  intro f d s
  rw [← rotateLeft_eq_ofNat, ← rotateRight_eq_ofNat, ← getBit_seven, ← getBit_zero_eq_odd]
  exact ⟨storesResult_rlf f d s, storesResult_rrf f d s⟩

/-- Settles O28: RLF leaves the operand on register `n`, so RRF reads there what RLF wrote, and takes in and gives back
the bits RLF moved through the carry. -/
theorem rrfAfterRlfRestores : Obligations.RrfAfterRlfRestores := by
  intro f s n hcell hbank
  obtain ⟨t, hrlf, frame, -, hct⟩ := storesResult_rlf f .f s
  obtain ⟨u, hrrf, frame', -, hcu⟩ := storesResult_rrf f .f t
  have hcell' : t.cellOf f = .gpr n := by
    obtain hfixed | hbit | hsame := hbank
    · exact frame.cellOf_of_gpr hcell (.inl hfixed)
    · exact frame.cellOf_of_gpr hcell (.inr hbit)
    · exact hsame t hrlf
  obtain ⟨hwt, -, hstatust, hramt⟩ := frame.of_gpr hcell
  obtain ⟨hwu, -, hstatusu, hramu⟩ := frame'.of_gpr hcell'
  have hcfgt := frame.sameSetting.cfg
  have hcfgu := frame'.sameSetting.cfg
  have hfile : t.file f = rotateLeft (s.file f) s.flagC := by rw [State.file_of_gpr hcell', hramt, if_pos rfl]
  have hvalue : rotateRight (t.file f) t.flagC = Memory.read s.ram n := by
    rw [hfile, hct, rotateRight_rotateLeft, State.file_of_gpr hcell]
  have hcarry : u.flagC = s.flagC := by rw [hcu, hfile, getBit_rotateLeft_zero]
  refine ⟨t, u, hrlf, hrrf, fun k => ?_, byte_ext fun p => ?_, hwu.trans hwt⟩
  · rw [hramu, hramt, hvalue]
    by_cases hk : n = k <;> simp [hk]
  · by_cases hp : p = s.cfg.bitC
    · rwa [State.flagC, State.flagC, hcfgu, hcfgt, ← hp] at hcarry
    · rw [hstatusu p (by simpa [hcfgt] using hp), hstatust p (by simpa using hp)]

end Sys2Proof.Proofs
end

section
/-! The bit operations (42_bit_operations.md): BCF and BSF as read-modify-writes that name no flag. What `clearBit` and
`raiseBit` make of each bit is said by the laws of single bits. -/
namespace Sys2Proof.Machine

/-- An instruction that reads its register and names no flag (rules R29, R70). -/
theorem storesResult_noFlags {i : Instr} {s : State} {f : FileNum} {d : Dest} {v : Byte}
    (hexec : exec i s = .next ((s.afterRead f).complete f d v id)) :
    StoresResult i s f d v [] fun _ => True :=
  storesResult_complete hexec (flagUpdate_id _) (s.afterRead_eq f) trivial

/-- The byte BCF writes back is the one it read, with bit `b` cleared (rule R180). -/
theorem storesResult_bcf (f : FileNum) (b : BitNum) (s : State) :
    StoresResult (.bcf f b) s f .f (clearBit (s.file f) b) [] fun _ => True :=
  storesResult_noFlags rfl

/-- The byte BSF writes back is the one it read, with bit `b` set (rule R181). -/
theorem storesResult_bsf (f : FileNum) (b : BitNum) (s : State) :
    StoresResult (.bsf f b) s f .f (raiseBit (s.file f) b) [] fun _ => True :=
  storesResult_noFlags rfl

end Sys2Proof.Machine

namespace Sys2Proof.Proofs
open Sys2Proof Sys2Proof.Machine

/-- Settles O29: the bytes stored are `clearBit` and `raiseBit` of the value read, which differ from it in bit `b`
alone. -/
theorem bcfBsfChangeOneBit : Obligations.BcfBsfChangeOneBit := by
  intro f b s
  constructor
  · exact ⟨clearBit (s.file f) b, getBit_clearBit _ b, storesResult_bcf f b s⟩
  · exact ⟨raiseBit (s.file f) b, getBit_raiseBit _ b, storesResult_bsf f b s⟩

end Sys2Proof.Proofs
end

section
/-! The skip and control-transfer instructions (43_skip_and_control.md). A bit test reads its register and moves `pc`
on, and nothing else (`exec_btfsc`, `exec_btfss`); INCFSZ and DECFSZ end in `completeSkip` (`exec_completeSkip`); GOTO
and CALL go to the address `State.target_toNat` gives as a number, CALL after a push with room, without, or over the
oldest entry. -/
namespace Sys2Proof

/-! ### The words of formats FB and K11 -/

/-- Two fields side by side, as the high one in place with the low one below it. -/
theorem append_eq_or {m n : Nat} (x : BitVec m) (y : BitVec n) : x ++ y = (x ++ 0#n) ||| y.setWidth (m + n) := by
  rw [BitVec.append_def, BitVec.append_def]
  simp

/-- The opcode in place, below it the bit number from bit 7 on, below that the file number (rule R95). -/
theorem formatFB_eq_or (op : BitVec 4) (b : BitNum) (f : FileNum) :
    formatFB op b f = (op ++ 0#10) ||| (b.setWidth 14 <<< 7) ||| f.setWidth 14 := by
  have hhigh : op ++ b ++ 0#7 = (op ++ 0#10) ||| (b.setWidth 14 <<< 7) := by
    ext i hi
    grind
  calc formatFB op b f
      = (op ++ b ++ 0#7) ||| f.setWidth 14 := append_eq_or (op ++ b) f
    _ = (op ++ 0#10) ||| (b.setWidth 14 <<< 7) ||| f.setWidth 14 := by rw [hhigh]

/-- The opcode in place and the target below it (rule R97). -/
theorem formatK11_eq_or (op : BitVec 3) (k : Target) : formatK11 op k = (op ++ 0#11) ||| k.setWidth 14 :=
  append_eq_or op k

end Sys2Proof

namespace Sys2Proof.Machine

/-! ### The bit tests -/

/-- Bit `b` as the digit of weight `2 ^ b` (rule R4). -/
theorem getBit_eq_odd_div (v : Byte) (b : BitNum) : getBit v b = decide (v.toNat / 2 ^ b.toNat % 2 = 1) :=
  Nat.testBit_eq_decide_div_mod_eq

/-- BTFSC skips where the bit is 0, and reading its register is all it does besides (rules R70, R191). -/
theorem exec_btfsc (f : FileNum) (b : BitNum) (s : State) :
    exec (.btfsc f b) s =
      .next (State.skipIf { s with freeIx := (s.afterRead f).freeIx } (!getBit (s.file f) b)) := by
  obtain ⟨n, hn⟩ := s.afterRead_eq f
  change execBtfsc f b s = _
  rw [execBtfsc, hn]

/-- BTFSS skips where the bit is 1, and reading its register is all it does besides (rules R70, R192). -/
theorem exec_btfss (f : FileNum) (b : BitNum) (s : State) :
    exec (.btfss f b) s =
      .next (State.skipIf { s with freeIx := (s.afterRead f).freeIx } (getBit (s.file f) b)) := by
  obtain ⟨n, hn⟩ := s.afterRead_eq f
  change execBtfss f b s = _
  rw [execBtfss, hn]

/-! ### INCFSZ and DECFSZ -/

/-- An instruction that reads its register, stores `r` and skips where `r` is zero (rules R70, R190). -/
theorem exec_completeSkip {i : Instr} {s : State} {f : FileNum} {d : Dest} {r : Byte}
    (hexec : exec i s = .next ((s.afterRead f).completeSkip f d r)) :
    ∃ t, exec i s = .next t ∧ DestFrame s t f d r [] ∧ EndsWithSkip s t f d r :=
  ⟨_, hexec, completeSkip_spec (s.afterRead_eq f)⟩

/-! ### GOTO and CALL -/

/-- The page `PCLATH<4:3>` selects holds 2048 words, and the target lies in it (rule R75). -/
theorem State.target_toNat (s : State) (k : Target) :
    (s.target k).toNat = 2048 * (s.pclath.toNat / 8) + k.toNat := by
  have hpclath : s.pclath.toNat < 2 ^ 5 := s.pclath.isLt
  have hpage : (s.pclath.extractLsb' 3 2).toNat = s.pclath.toNat / 8 := by
    simp only [BitVec.extractLsb'_toNat, Nat.shiftRight_eq_div_pow]
    omega
  rw [State.target, BitVec.toNat_append, ← Nat.shiftLeft_add_eq_or_of_lt k.isLt, Nat.shiftLeft_eq, hpage]
  omega

/-- A push on a full circular stack gives up the oldest live entry (rule R43, assumption 3). -/
theorem State.push_of_wrap {s : State} (hfull : s.stack.length = s.cfg.stackDepth) (hpos : 0 < s.cfg.stackDepth)
    (hwrap : s.cfg.stackWrap = true) (v : Pc) :
    s.push v = some { s with stack := v :: s.stack.dropLast } := by
  have hkept : (v :: s.stack).take s.cfg.stackDepth = v :: s.stack.dropLast := by
    rw [List.take_cons hpos, ← hfull, List.dropLast_eq_take]
  rw [State.push, if_neg hfull.not_lt, if_pos hwrap, hkept]

/-- CALL on a full circular stack (rules R43, R196). -/
theorem exec_call_of_wrap {s : State} (hfull : s.stack.length = s.cfg.stackDepth) (hpos : 0 < s.cfg.stackDepth)
    (hwrap : s.cfg.stackWrap = true) (k : Target) :
    exec (.call k) s = .next { s with
      stack := (s.pc + 1) :: s.stack.dropLast, pc := s.target k, cycles := s.cycles + 2 } := by
  change execCall k s = _
  rw [execCall, State.push_of_wrap hfull hpos hwrap]
  rfl

/-- CALL on a full stack that does not wrap (rules R10, R43). -/
theorem exec_call_of_overflow {s : State} (hfull : s.cfg.stackDepth ≤ s.stack.length)
    (hwrap : s.cfg.stackWrap = false) (k : Target) : exec (.call k) s = .refused .stackOverflow := by
  change execCall k s = _
  rw [execCall, (s.push_eq_none _).2 ⟨hfull, hwrap⟩]

end Sys2Proof.Machine

namespace Sys2Proof.Proofs
open Sys2Proof Sys2Proof.Machine

/-- Settles O30, by the value of the tested bit: BTFSC and BTFSS skip on opposite values of it. -/
theorem bitTestsSkip : Obligations.BitTestsSkip := by
  intro f b s
  refine ⟨formatFB_eq_or _ b f, formatFB_eq_or _ b f, (s.afterRead f).freeIx, s.afterRead_freeIx f, ?_⟩
  rw [exec_btfsc, exec_btfss, getBit_eq_odd_div]
  split
  · next hclear =>
    rw [hclear]
    exact ⟨rfl, rfl⟩
  · next hset =>
    rw [Nat.mod_two_ne_zero.1 hset]
    exact ⟨rfl, rfl⟩

/-- Settles O31: both end in `completeSkip`, with the register plus one and with it minus one, which is plus 255
modulo 256. -/
theorem incfszDecfszSkipOnZero : Obligations.IncfszDecfszSkipOnZero := by
  intro f d s
  have hinc : BitVec.ofNat 8 ((s.file f).toNat + 1) = s.file f + 1 := by bv_omega
  have hdec : BitVec.ofNat 8 ((s.file f).toNat + 255) = s.file f - 1 := by bv_omega
  rw [hinc, hdec]
  exact ⟨exec_completeSkip rfl, exec_completeSkip rfl⟩

/-- Settles O33, by what the push finds: room, a full stack that is refused, or one that wraps. -/
theorem callPushesReturnAddress : Obligations.CallPushesReturnAddress := by
  intro k s
  refine ⟨formatK11_eq_or _ k, s.target k, s.target_toNat k, fun hroom => ?_, fun hfull hwrap => ?_,
    fun hfull hpos hwrap => ?_⟩
  · exact exec_call_of_room hroom k
  · exact exec_call_of_overflow hfull hwrap k
  · exact exec_call_of_wrap hfull hpos hwrap k

/-- Settles O32: GOTO is the jump to the target, which changes `pc` and `cycles` alone. -/
theorem gotoJumpsWithinPage : Obligations.GotoJumpsWithinPage := fun k s =>
  ⟨formatK11_eq_or _ k, s.target k, s.target_toNat k, rfl⟩

end Sys2Proof.Proofs
end

section
/-! The system instructions (44_system.md): the words of NOP, and what clearing the watchdog and writing `TO` and `PD`
make of each bit of `STATUS`, which CLRWDT and SLEEP share. -/
namespace Sys2Proof

/-- The two bits the decoder ignores in NOP (rules R99, R100). -/
theorem decode_nop (x : BitVec 2) : decode (0b0000000#7 ++ x ++ 0b00000#5) = .ok .nop := by
  have hcleared : (0#7 ++ x ++ 0#5) &&& (BitVec.allOnes 7 ++ 0#2 ++ BitVec.allOnes 5) = 0#7 ++ 0#2 ++ 0#5 := by
    rw [BitVec.and_append, BitVec.and_append, BitVec.and_zero, BitVec.and_allOnes, BitVec.and_allOnes]
  exact decode_eq_ok_iff.2 hcleared

end Sys2Proof

namespace Sys2Proof.Machine

/-- `STATUS` after the watchdog is cleared and `TO`, then `PD` is written: `PD`, written last, prevails where the two
stand at one position (rules R221, R222). -/
theorem State.getBit_status_clearWatchdog_setTo_setPd (s : State) (x y : Bool) (p : BitNum) :
    getBit ((s.clearWatchdog.setTo x).setPd y).status p =
      if p = s.cfg.bitPd then y else if p = s.cfg.bitTo then x else getBit s.status p := by
  simp

end Sys2Proof.Machine

namespace Sys2Proof.Proofs
open Sys2Proof Sys2Proof.Machine

/-- Settles O38: the order of the two writes of `STATUS` is of no account, since both write a 1. -/
theorem clrwdtClearsWatchdog : Obligations.ClrwdtClearsWatchdog := by
  refine ⟨rfl, fun s => ⟨_, rfl, rfl, fun p => ?_⟩⟩
  rw [State.advance_status, State.getBit_status_clearWatchdog_setTo_setPd, ← ite_or]
  simp only [or_comm]

/-- Settles O39: `TO` and `PD` stand at distinct positions, so the 0 written to `PD` leaves the 1 in `TO`. -/
theorem sleepStopsTheCore : Obligations.SleepStopsTheCore := by
  refine ⟨rfl, fun s hwf => ⟨_, rfl, rfl, fun p => ?_⟩⟩
  obtain ⟨-, -, hdistinct⟩ := Config.wf_to_pd hwf
  rw [State.advance_status, State.getBit_status_clearWatchdog_setTo_setPd]
  by_cases hto : p = s.cfg.bitTo
  · have hpd : p ≠ s.cfg.bitPd := hto ▸ hdistinct
    rw [if_neg hpd, if_pos hto, if_pos hto]
  · rw [if_neg hto, if_neg hto]

/-- Settles O37: the two bits between the zeros of the opcode are the ignored ones, and NOP is the advance alone. -/
theorem nopOnlyAdvances : Obligations.NopOnlyAdvances := fun _ => ⟨rfl, decode_nop, rfl⟩

end Sys2Proof.Proofs
end

section
/-! Events at a boundary (60_exceptions.md): which event comes for which input (rules R235, R245), what interrupt entry
makes of the stack (rules R43, R236), and that a disabled watchdog stays silent (rule R243). -/
namespace Sys2Proof.Machine

/-! ### Which event a boundary brings -/

theorem State.undisturbed.no_timeout {s : State} (h : s.undisturbed) :
    (s.cfg.wdtEnabled && s.input.wdtTimeout) = false :=
  Bool.and_eq_false_iff.2 h.2

/-- A time-out of a running core is a reset (rules R235, R244). -/
theorem step_of_timeout_running {s : State} (hmode : s.mode = .run) (hreset : s.input.reset = none)
    (henabled : s.cfg.wdtEnabled = true) (htimeout : s.input.wdtTimeout = true) :
    step s = .next (s.takeInput.watchdogReset s.input.unspecified) := by
  have haction : s.action = .watchdogReset := by simp [State.action, hreset, henabled, htimeout, hmode]
  rw [step, haction]

/-- A time-out of a sleeping core is a wake-up (rules R235, R245(b)). -/
theorem step_of_timeout_asleep {s : State} (hmode : s.mode = .sleep) (hreset : s.input.reset = none)
    (henabled : s.cfg.wdtEnabled = true) (htimeout : s.input.wdtTimeout = true) :
    step s = .next s.takeInput.watchdogWake := by
  have haction : s.action = .watchdogWake := by simp [State.action, hreset, henabled, htimeout, hmode]
  rw [step, haction]

/-- A request to a sleeping core is a wake-up, whatever `GIE` is (rule R245(c)). -/
theorem step_of_request_asleep {s : State} (hmode : s.mode = .sleep) (h : s.undisturbed)
    (hreq : s.input.intReq = true) : step s = .next s.takeInput.interruptWake := by
  have haction : s.action = .interruptWake := by simp [State.action, h.1, h.no_timeout, hmode, hreq]
  rw [step, haction]

/-- With nothing to wake it a sleeping core only uses up the boundary's input (rule R246). -/
theorem step_of_no_request_asleep {s : State} (hmode : s.mode = .sleep) (h : s.undisturbed)
    (hreq : s.input.intReq = false) : step s = .next s.takeInput := by
  have haction : s.action = .stayAsleep := by simp [State.action, h.1, h.no_timeout, hmode, hreq]
  rw [step, haction]

/-- A request to a running core with `GIE` = 1 and no holdoff is interrupt entry (rule R236). -/
theorem step_of_request_running {s : State} (hmode : s.mode = .run) (h : s.undisturbed)
    (hreq : s.input.intReq = true) (hgie : s.gie = true) (hholdoff : s.intHoldoff = false) :
    step s = s.takeInput.interruptEntry := by
  have haction : s.action = .interruptEntry := by
    simp [State.action, h.1, h.no_timeout, hmode, hreq, hgie, hholdoff]
  rw [step, haction]

/-- Where the boundary brings the word of `i`, the step is `i` (rules R9, R108). -/
theorem step_of_holdsAtPc {s : State} {w : InstrWord} {i : Instr} (hnext : s.executesNext)
    (hword : s.holdsAtPc w) (hdecode : decode w = .ok i) : step s = exec i s.takeInput := by
  obtain ⟨hstep, -⟩ := Proofs.stepRunsDecodedInstruction s w i hnext hword hdecode
  exact hstep

/-- A disabled watchdog does not time out (rule R243). -/
theorem State.action_of_watchdog_off {s : State} (hoff : s.cfg.wdtEnabled = false) :
    s.action ≠ .watchdogReset ∧ s.action ≠ .watchdogWake := by
  unfold State.action
  rw [hoff, Bool.false_and, if_neg Bool.false_ne_true]
  split
  · simp
  · split <;> split <;> simp

/-- The wake-up of a time-out writes `TO` and `PD` (rule R244). -/
theorem State.watchdogWake_status (s : State) :
    s.watchdogWake.status = ((s.clearWatchdog.setTo false).setPd false).status := rfl

/-! ### Interrupt entry -/

theorem State.interruptEntry_of_room {s : State} (h : s.stack.length < s.cfg.stackDepth) :
    s.interruptEntry = .next { s with
      gieReg := putBit s.gieReg s.cfg.bitGie false, stack := s.pc :: s.stack, stale := s.stale.dropLast,
      pc := s.cfg.intVector } := by
  rw [State.interruptEntry, State.push_of_room (s := s.setGie false) h]
  rfl

/-- A request taken by a running core with room on the stack (rules R41, R236). -/
theorem step_of_request_of_room {s : State} (hmode : s.mode = .run) (h : s.undisturbed)
    (hreq : s.input.intReq = true) (hgie : s.gie = true) (hholdoff : s.intHoldoff = false)
    (hroom : s.stack.length < s.cfg.stackDepth) :
    step s = .next { s.takeInput with
      gieReg := putBit s.gieReg s.cfg.bitGie false, stack := s.pc :: s.stack, stale := s.stale.dropLast,
      pc := s.cfg.intVector } :=
  (step_of_request_running hmode h hreq hgie hholdoff).trans (State.interruptEntry_of_room hroom)

/-- The oldest return address is given up (rule R43, assumption 3). -/
theorem State.interruptEntry_of_wrap {s : State} (hfull : s.stack.length = s.cfg.stackDepth)
    (hpos : 0 < s.cfg.stackDepth) (hwrap : s.cfg.stackWrap = true) :
    s.interruptEntry = .next { s with
      gieReg := putBit s.gieReg s.cfg.bitGie false, stack := s.pc :: s.stack.dropLast,
      pc := s.cfg.intVector } := by
  rw [State.interruptEntry, State.push_of_wrap (s := s.setGie false) hfull hpos hwrap]
  rfl

theorem State.interruptEntry_of_overflow {s : State} (hfull : s.cfg.stackDepth ≤ s.stack.length)
    (hwrap : s.cfg.stackWrap = false) : s.interruptEntry = .refused .stackOverflow := by
  rw [State.interruptEntry, ((s.setGie false).push_eq_none _).2 ⟨hfull, hwrap⟩]

/-- Everything interrupt entry can change: `GIE`, the stack's entries and `pc` (rule R236). -/
theorem State.interruptEntry_changes {s t : State} (h : s.interruptEntry = .next t) :
    ∃ l m, t = { s.setGie false with stack := l, stale := m, pc := s.cfg.intVector } := by
  obtain ⟨u, hpush, rfl⟩ := State.interruptEntry_cases h
  obtain ⟨l, m, rfl, -⟩ := State.push_stack hpush
  exact ⟨l, m, rfl⟩

/-- RETFIE with an entry on the stack (rules R42, R199). -/
theorem exec_retfie_of_stack {s : State} {a : Pc} {rest : List Pc} (h : s.stack = a :: rest) :
    exec .retfie s = .next (State.setGie
      { s with stack := rest, stale := s.stale ++ [a], pc := a, cycles := s.cycles + 2 } true) :=
  State.popReturn_of_stack h (·.setGie true)

@[simp] theorem State.setGie_gie (s : State) (x : Bool) : (s.setGie x).gie = x := by
  simp [State.gie]

/-! ### What an instruction and a reset leave of the mode, the holdoff and the watchdog -/

/-- Only CLRWDT and SLEEP touch the watchdog's counters (rules R44, R45). -/
theorem exec_keeps_watchdog {i : Instr} {s t : State} (h : exec i s = .next t) (hclrwdt : i ≠ .clrwdt)
    (hsleep : i ≠ .sleep) : t.wdt = s.wdt ∧ t.wdtPrescaler = s.wdtPrescaler := by
  obtain ⟨-, -, -, -, -, -, -, hwatchdog, -⟩ := Proofs.registersChangeOnlyByTheirWriters i s t h
  tauto

theorem exec_keeps_mode {i : Instr} {s t : State} (h : exec i s = .next t) (hsleep : i ≠ .sleep) :
    t.mode = s.mode := by
  obtain ⟨-, -, -, -, -, -, -, -, hmode, -⟩ := Proofs.registersChangeOnlyByTheirWriters i s t h
  exact not_ne_iff.1 fun hne => hsleep (hmode hne)

theorem exec_keeps_intHoldoff {i : Instr} {s t : State} (h : exec i s = .next t) :
    t.intHoldoff = s.intHoldoff := by
  obtain ⟨-, -, -, -, -, -, -, -, -, -, -, -, hholdoff⟩ := Proofs.registersChangeOnlyByTheirWriters i s t h
  exact hholdoff

/-- Every reset leaves a running core (rules R46, R260). -/
theorem State.resetBy_mode (s : State) (u : Unspecified) (k : ResetKind) : (s.resetBy u k).mode = .run := by
  cases k with
  | powerOn => rfl
  | external =>
    unfold State.resetBy State.externalReset
    cases s.mode <;> rfl

/-- The word of SLEEP has no ignored bit (rule R100). -/
theorem eq_encode_sleep_of_decode {w : InstrWord} (h : decode w = .ok .sleep) : w = encode .sleep := by
  have hall : ~~~ ignoredBits .sleep = BitVec.allOnes 14 := rfl
  rw [← decode_eq_ok_iff.1 h, hall, BitVec.and_allOnes]

/-! ### A watchdog that has not timed out -/

/-- The watchdog's counters are 0 and no time-out shows in `TO` (rules R27, R44, R45). -/
structure State.WatchdogSilent (s : State) : Prop where
  /-- Rule R44. -/
  wdt : s.wdt = 0
  /-- Rule R45. -/
  wdtPrescaler : s.wdtPrescaler = 0
  /-- Rule R27. -/
  flagTo : s.flagTo = true

theorem State.WatchdogSilent.takeInput {s : State} (h : s.WatchdogSilent) (hoff : s.cfg.wdtEnabled = false) :
    s.takeInput.WatchdogSilent := by
  obtain ⟨hwdt, hpre⟩ := State.takeInput_keeps_watchdog (s := s) (.inl hoff)
  exact ⟨hwdt.trans h.wdt, hpre.trans h.wdtPrescaler, h.flagTo⟩

/-- The resets of the environment leave `TO` 1, the external one of a running core because it was 1
(rules R51, R261). -/
theorem State.WatchdogSilent.resetBy {s : State} (h : s.WatchdogSilent) (hwf : s.cfg.wf = true)
    (u : Unspecified) (k : ResetKind) : (s.resetBy u k).WatchdogSilent := by
  have hreset (cf dcf zf pdf : Bool) :
      (s.resetCommon u (resetStatus s.cfg cf dcf zf true pdf)).WatchdogSilent := by
    obtain ⟨-, -, -, hto, -⟩ := getBit_resetStatus hwf cf dcf zf true pdf
    exact ⟨rfl, rfl, hto⟩
  cases k with
  | powerOn =>
    obtain ⟨hwdt, hpre, hto⟩ := hreset u.c u.dc u.z true
    exact ⟨hwdt, hpre, hto⟩
  | external =>
    unfold State.resetBy State.externalReset
    cases s.mode with
    | run =>
      dsimp only
      rw [h.flagTo]
      exact hreset ..
    | sleep => exact hreset ..

theorem State.WatchdogSilent.interruptEntry {s t : State} (h : s.WatchdogSilent)
    (hentry : s.interruptEntry = .next t) : t.WatchdogSilent := by
  obtain ⟨l, m, rfl⟩ := State.interruptEntry_changes hentry
  exact ⟨h.wdt, h.wdtPrescaler, h.flagTo⟩

/-- CLRWDT and SLEEP clear the counters and set `TO`, no other instruction touches either (rules R221, R222). -/
theorem State.WatchdogSilent.exec {i : Instr} {s t : State} (h : s.WatchdogSilent) (hwf : s.cfg.wf = true)
    (hexec : exec i s = .next t) : t.WatchdogSilent := by
  obtain ⟨-, -, hdistinct⟩ := Config.wf_to_pd hwf
  by_cases hclrwdt : i = .clrwdt
  · subst hclrwdt
    cases hexec
    exact ⟨rfl, rfl, by simp [State.flagTo]⟩
  by_cases hsleep : i = .sleep
  · subst hsleep
    cases hexec
    exact ⟨rfl, rfl, by simp [State.flagTo, hdistinct]⟩
  obtain ⟨hwdt, hpre⟩ := exec_keeps_watchdog hexec hclrwdt hsleep
  obtain ⟨hto, -⟩ := Proofs.timeoutAndPowerDownBitsAreProtected i s t hwf hexec hclrwdt hsleep
  exact ⟨hwdt.trans h.wdt, hpre.trans h.wdtPrescaler, hto.trans h.flagTo⟩

end Sys2Proof.Machine

namespace Sys2Proof.Proofs
open Sys2Proof Sys2Proof.Machine

/-- Settles O40, by what the push of interrupt entry finds, and where `GIE` = 0 by the instruction at `pc`. -/
theorem interruptEntryPushesPc : Obligations.InterruptEntryPushesPc := by
  intro s hmode hundisturbed hholdoff hreq
  have hentry (hgie : s.gie = true) : step s = s.takeInput.interruptEntry :=
    step_of_request_running hmode hundisturbed hreq hgie hholdoff
  refine ⟨⟨putBit s.gieReg s.cfg.bitGie false, getBit_putBit _ _ _, fun hgie hroom => ?_,
    fun hgie hfull hpos hwrap => ?_⟩, fun hgie hfull hwrap => ?_, fun hmasked => ?_⟩
  · exact step_of_request_of_room hmode hundisturbed hreq hgie hholdoff hroom
  · exact (hentry hgie).trans (State.interruptEntry_of_wrap hfull hpos hwrap)
  · exact (hentry hgie).trans (State.interruptEntry_of_overflow hfull hwrap)
  · exact step_of_executesNext ⟨hmode, hundisturbed, .inr (.inl hmasked)⟩

/-- Settles O41: the pop of RETFIE makes the room into which entry pushes the same address again. -/
theorem retfieReentersWhileRequested : Obligations.RetfieReentersWhileRequested := by
  intro s a rest hnext hword hstack hroom hundisturbed hreq
  have hretfie := (step_of_holdsAtPc hnext hword (decode_encode .retfie)).trans (exec_retfie_of_stack hstack)
  exact ⟨_, _, hretfie, rfl, State.setGie_gie _ _,
    step_of_request_of_room hnext.1 hundisturbed hreq (State.setGie_gie _ _) rfl hroom, rfl, rfl,
    by simp [State.gie], rfl, rfl, rfl, rfl, rfl⟩

/-- Settles O42: the bits of `STATUS` are those of `resetStatus`, every other element stands in the record. -/
theorem watchdogTimeoutResetsRunningCore : Obligations.WatchdogTimeoutResetsRunningCore := by
  intro s hwf henabled hmode hreset htimeout
  obtain ⟨hc, hdc, hz, hto, hpd, hrest⟩ := getBit_resetStatus hwf s.flagC s.flagDc s.flagZ false true
  exact ⟨_, step_of_timeout_running hmode hreset henabled htimeout, rfl, rfl, rfl, rfl, rfl, rfl, rfl, rfl, hto,
    hpd, hc, hdc, hz, hrest, rfl, rfl, rfl, rfl, rfl⟩

/-- Settles O43: the order of the two writes of `STATUS` is of no account, since both write a 0. -/
theorem watchdogTimeoutWakesSleepingCore : Obligations.WatchdogTimeoutWakesSleepingCore := by
  intro s _ henabled hmode hreset htimeout
  refine ⟨_, step_of_timeout_asleep hmode hreset henabled htimeout, rfl, fun p => ?_⟩
  rw [State.watchdogWake_status, State.getBit_status_clearWatchdog_setTo_setPd, ← ite_or]
  exact if_congr or_comm rfl rfl

/-- Settles O44: the wake-up sets the holdoff, under which the next boundary brings the instruction; that boundary
ends the holdoff and no instruction sets it again. -/
theorem interruptWakeRunsOneInstruction : Obligations.InterruptWakeRunsOneInstruction := by
  intro s w i hmode hundisturbed hreq hundisturbed' hword hdecode
  have hwoken : s.takeInput.interruptWake.executesNext := ⟨rfl, hundisturbed', .inr (.inr rfl)⟩
  have hexec := step_of_holdsAtPc hwoken hword hdecode
  refine ⟨_, step_of_request_asleep hmode hundisturbed hreq, rfl, rfl, rfl, rfl, rfl, hexec,
    fun u hstep hgie hrun hquiet hagain => ?_⟩
  have hholdoff : u.intHoldoff = false := exec_keeps_intHoldoff (hexec.symm.trans hstep)
  exact step_of_request_running hrun hquiet hagain hgie hholdoff

/-- Settles O48: the step uses up the boundary's input and does nothing else. -/
theorem sleepingCoreKeepsState : Obligations.SleepingCoreKeepsState := fun _ hmode hundisturbed hreq =>
  ⟨_, step_of_no_request_asleep hmode hundisturbed hreq, rfl, fun hoff =>
    State.takeInput_keeps_watchdog (.inl hoff)⟩

/-- Settles O49, by what the boundary brings; a time-out it cannot bring. -/
theorem disabledWatchdogNeverTimesOut : Obligations.DisabledWatchdogNeverTimesOut := by
  intro s t hwf hoff hwdt hpre hto hstep
  have h : s.takeInput.WatchdogSilent := State.WatchdogSilent.takeInput ⟨hwdt, hpre, hto⟩ hoff
  suffices ht : t.WatchdogSilent from ⟨ht.wdt, ht.wdtPrescaler, ht.flagTo⟩
  obtain ⟨hreset, hwake⟩ := State.action_of_watchdog_off hoff
  obtain ⟨k, -, rfl⟩ | ⟨haction, -⟩ | ⟨haction, -⟩ | ⟨-, rfl⟩ | ⟨-, hentry⟩ | ⟨-, rfl⟩ |
    ⟨-, w, i, -, -, hexec⟩ := step_cases hstep
  · exact h.resetBy hwf _ k
  · exact absurd haction hreset
  · exact absurd haction hwake
  · exact ⟨h.wdt, h.wdtPrescaler, h.flagTo⟩
  · exact h.interruptEntry hentry
  · exact h
  · exact h.exec hwf hexec

/-- Settles O55, by what the boundary brings: each event leaves the core running, and of the instructions only SLEEP
changes the mode. -/
theorem onlySleepEntersSleep : Obligations.OnlySleepEntersSleep := by
  intro s t hstep hrun hsleep
  suffices h : t.mode = .run ∨ s.executesNext ∧ s.holdsAtPc (encode .sleep) from
    h.resolve_left (by simp [hsleep])
  obtain ⟨k, -, rfl⟩ | ⟨-, rfl⟩ | ⟨-, rfl⟩ | ⟨-, rfl⟩ | ⟨-, hentry⟩ | ⟨-, rfl⟩ |
    ⟨haction, w, i, hword, hdecode, hexec⟩ := step_cases hstep
  · exact .inl (State.resetBy_mode _ _ k)
  · exact .inl rfl
  · exact .inl rfl
  · exact .inl rfl
  · obtain ⟨l, m, rfl⟩ := State.interruptEntry_changes hentry
    exact .inl hrun
  · exact .inl hrun
  · by_cases hi : i = .sleep
    · subst hi
      exact .inr ⟨s.action_eq_execute.1 haction, eq_encode_sleep_of_decode hdecode ▸ hword⟩
    · exact .inl ((exec_keeps_mode hexec hi).trans hrun)

/-- Settles O45, by the mode where the boundary brings a time-out. -/
theorem resetBeforeTimeoutBeforeInterrupt : Obligations.ResetBeforeTimeoutBeforeInterrupt := by
  intro s
  refine ⟨fun k => step_of_reset, fun hreset henabled htimeout => ?_⟩
  cases hmode : s.mode with
  | run => exact step_of_timeout_running hmode hreset henabled htimeout
  | sleep => exact step_of_timeout_asleep hmode hreset henabled htimeout

end Sys2Proof.Proofs
end

section
/-! The external reset (rule R261) and the cycle counts (rules R47, R48, R271). `exec_timing` says once how every
instruction ends: at `pc + 1` after one cycle, or anywhere after two. -/
namespace Sys2Proof.Machine

/-! ### The external reset -/

/-- The reset pin is the common reset, with `TO` and `PD` by the mode it finds the core in (rule R261). -/
theorem State.externalReset_eq (s : State) (u : Unspecified) :
    ∃ tof pdf, s.externalReset u =
        s.resetCommon u (resetStatus s.cfg s.flagC s.flagDc s.flagZ tof pdf) ∧
      tof = (match s.mode with | .run => s.flagTo | .sleep => true) ∧
      pdf = (match s.mode with | .run => s.flagPd | .sleep => false) := by
  unfold State.externalReset
  cases s.mode with
  | run => exact ⟨s.flagTo, s.flagPd, rfl, rfl, rfl⟩
  | sleep => exact ⟨true, false, rfl, rfl, rfl⟩

/-! ### The end of an instruction in time -/

/-- Where and when the instruction `i`, completing from `s` in `t`, goes on (rules R47, R48, R271). -/
inductive InstrTiming (i : Instr) (s t : State) : Prop where
  /-- At the next instruction after one cycle, which no control transfer does, nor a write of `PCL`. -/
  | next (pc : t.pc = s.pc + 1) (cycles : t.cycles = s.cycles + 1) (noTransfer : twoCycles i = false)
      (noPcl : oneCycle i = true → cellWritten i s ≠ some .pcl)
  /-- After two cycles, which a one-cycle instruction takes only for a write of `PCL` (assumption 12). -/
  | two (cycles : t.cycles = s.cycles + 2) (pcl : oneCycle i = true → cellWritten i s = some .pcl)

/-- The destination operand is the cell `c` exactly where the instruction writes `c` (rule R21). -/
theorem cellWritten_eq_some_iff {i : Instr} {s : State} {f : FileNum} {d : Dest} {c : Cell}
    (written : fileWritten i = if d = .f then some f else none) :
    cellWritten i s = some c ↔ s.writesCell f d c := by
  cases d <;> simp [cellWritten, written, State.writesCell]

theorem EndsNormally.timing {i : Instr} {s t : State} {f : FileNum} {d : Dest} {v : Byte}
    (h : EndsNormally s t f d v) (noTransfer : twoCycles i = false)
    (written : fileWritten i = if d = .f then some f else none) : InstrTiming i s t := by
  unfold EndsNormally at h
  split at h
  · next hpcl => exact .two h.2 fun _ => (cellWritten_eq_some_iff written).2 hpcl
  · next hpcl => exact .next h.1 h.2 noTransfer fun _ => mt (cellWritten_eq_some_iff written).1 hpcl

/-- An instruction with a destination operand, from the state `s` itself or from `s` once its register was read. -/
theorem complete_timing {i : Instr} {s s' : State} {f : FileNum} {d : Dest} {v : Byte} {named : List BitNum}
    {g : State → State} (hg : FlagUpdate s.cfg named g) (hs : ∃ n, s' = { s with freeIx := n })
    (noTransfer : twoCycles i = false) (written : fileWritten i = if d = .f then some f else none) :
    InstrTiming i s (s'.complete f d v g) := by
  obtain ⟨-, hend, -⟩ := complete_spec (f := f) (d := d) (v := v) hg hs
  exact hend.timing noTransfer written

/-- A conditional skip is in neither class of the table: one cycle without the skip, two with it (rule R190). -/
theorem EndsWithSkip.timing {i : Instr} {s t : State} {f : FileNum} {d : Dest} {r : Byte}
    (h : EndsWithSkip s t f d r) (noTransfer : twoCycles i = false) (skips : oneCycle i = false) :
    InstrTiming i s t := by
  have hone {p : Prop} : oneCycle i = true → p := by simp [skips]
  unfold EndsWithSkip at h
  split at h
  · exact .two h.1 hone
  · split at h
    · exact .two h.2 hone
    · exact .next h.1 h.2 noTransfer hone

/-- INCFSZ and DECFSZ. -/
theorem completeSkip_timing {i : Instr} {s s' : State} {f : FileNum} {d : Dest} {r : Byte}
    (hs : ∃ n, s' = { s with freeIx := n }) (noTransfer : twoCycles i = false) (skips : oneCycle i = false) :
    InstrTiming i s (s'.completeSkip f d r) := by
  obtain ⟨-, hend⟩ := completeSkip_spec (f := f) (d := d) (r := r) hs
  exact hend.timing noTransfer skips

/-- BTFSC and BTFSS. -/
theorem skipIf_timing {i : Instr} {s s' : State} (b : Bool) (hs : ∃ n, s' = { s with freeIx := n })
    (noTransfer : twoCycles i = false) (skips : oneCycle i = false) : InstrTiming i s (s'.skipIf b) := by
  have hone {p : Prop} : oneCycle i = true → p := by simp [skips]
  obtain ⟨n, rfl⟩ := hs
  cases b with
  | false => exact .next rfl rfl noTransfer hone
  | true => exact .two rfl hone

/-- An instruction with no file register to write, which goes on at `pc + 1`. -/
theorem InstrTiming.of_unwritten {i : Instr} {s t : State} (pc : t.pc = s.pc + 1)
    (cycles : t.cycles = s.cycles + 1) (noTransfer : twoCycles i = false) (unwritten : fileWritten i = none) :
    InstrTiming i s t :=
  .next pc cycles noTransfer fun _ => by simp [cellWritten, unwritten]

/-- A return takes two cycles, whatever else it writes (rules R197 to R199). -/
theorem State.popReturn_cycles {s t : State} {effect : State → State} (he : ∀ u, (effect u).cycles = u.cycles)
    (h : s.popReturn effect = .next t) : t.cycles = s.cycles + 2 := by
  obtain ⟨a, u, hpop, rfl⟩ := State.popReturn_cases h
  obtain ⟨l, m, rfl, -⟩ := State.pop_stack hpop
  exact he _

theorem execCall_cycles {s t : State} {k : Target} (h : execCall k s = .next t) : t.cycles = s.cycles + 2 := by
  obtain ⟨u, hpush, rfl⟩ := execCall_cases h
  obtain ⟨l, m, rfl, -⟩ := State.push_stack hpush
  rfl

/-- The end of every instruction that completes, in time. -/
theorem exec_timing {i : Instr} {s t : State} (h : exec i s = .next t) : InstrTiming i s t := by
  cases i with
  | movwf f => cases h; exact complete_timing (flagUpdate_id _) ⟨_, rfl⟩ rfl rfl
  | clrf f => cases h; exact complete_timing (flagUpdate_setZ _ _) ⟨_, rfl⟩ rfl rfl
  | bcf f b | bsf f b => cases h; exact complete_timing (flagUpdate_id _) (s.afterRead_eq f) rfl rfl
  | swapf f d =>
    cases h; exact complete_timing (flagUpdate_id _) (s.afterRead_eq f) rfl (by cases d <;> rfl)
  | movf f d | andwf f d | iorwf f d | xorwf f d | incf f d | decf f d | comf f d =>
    cases h; exact complete_timing (flagUpdate_setZOf _ _) (s.afterRead_eq f) rfl (by cases d <;> rfl)
  | addwf f d | subwf f d =>
    cases h; exact complete_timing (flagUpdate_setCDcZ _ _) (s.afterRead_eq f) rfl (by cases d <;> rfl)
  | rlf f d | rrf f d =>
    cases h; exact complete_timing (flagUpdate_setC _ _) (s.afterRead_eq f) rfl (by cases d <;> rfl)
  | incfsz f d | decfsz f d => cases h; exact completeSkip_timing (s.afterRead_eq f) rfl rfl
  | btfsc f b | btfss f b => cases h; exact skipIf_timing _ (s.afterRead_eq f) rfl rfl
  | movlw | clrw | addlw | sublw | andlw | iorlw | xorlw | nop | clrwdt | sleep =>
    cases h; exact .of_unwritten rfl rfl rfl rfl
  | goto k => cases h; exact .two rfl nofun
  | call k => exact .two (execCall_cycles h) nofun
  | ret => exact .two (State.popReturn_cycles (effect := id) (fun _ => rfl) h) nofun
  | retlw k => exact .two (State.popReturn_cycles (effect := fun u => { u with w := k }) (fun _ => rfl) h) nofun
  | retfie => exact .two (State.popReturn_cycles (effect := (·.setGie true)) (fun _ => rfl) h) nofun

end Sys2Proof.Machine

namespace Sys2Proof.Proofs
open Sys2Proof Sys2Proof.Machine

/-- Settles O47: the bits of `STATUS` are those of `resetStatus`, every other element stands in the record. -/
theorem externalResetKeepsOrMarksSleep : Obligations.ExternalResetKeepsOrMarksSleep := by
  intro s hwf hreset
  have hstep : step s = .next (s.takeInput.externalReset s.input.unspecified) := step_of_reset hreset
  obtain ⟨tof, pdf, hpin, htof, hpdf⟩ := s.takeInput.externalReset_eq s.input.unspecified
  rw [hpin] at hstep
  obtain ⟨hc, hdc, hz, hto, hpd, hrest⟩ := getBit_resetStatus hwf s.flagC s.flagDc s.flagZ tof pdf
  exact ⟨_, hstep, rfl, rfl, rfl, rfl, rfl, rfl, rfl, rfl, hrest, hto.trans htof, hpd.trans hpdf, rfl, rfl, rfl,
    hc, hdc, hz, rfl, rfl, rfl, rfl⟩

/-- Settles O54, by how the instruction ends: after one cycle at `pc + 1`, or after two. -/
theorem cyclesFollowTheTable : Obligations.CyclesFollowTheTable := by
  intro i s t hexec
  cases exec_timing hexec with
  | next hpc hcycles noTransfer noPcl =>
    refine ⟨fun htwo => ?_, fun hone => ?_, fun _ => hpc, .inl hcycles⟩
    · simp [noTransfer] at htwo
    · rw [if_neg (noPcl hone), hcycles]
  | two hcycles pcl =>
    refine ⟨fun _ => hcycles, fun hone => ?_, fun hnext => ?_, .inr hcycles⟩
    · rw [if_pos (pcl hone), hcycles]
    · omega

end Sys2Proof.Proofs
end
